-- ==== Sys2Proof/Word.lean ====
section
/-!
DEFINITION. The value types of the core (spec/00_scope.md rules R8, R10): bytes, the 32-bit words of the host
port, and byte strings of a fixed length. Index 0 is the leading byte of a string (R10, R39).
-/

namespace Sys2Proof

/-- A byte: an unsigned integer 0..255 (R10). -/
abbrev Byte := BitVec 8

/-- The data of one host access (R40), and a command word (R54). -/
abbrev Word := BitVec 32

/-- A byte string of exactly `n` bytes, byte 0 first (R10). -/
abbrev Bytes (n : Nat) := Vector Byte n

/-- A block: exactly 16 bytes (`BLOCK_BYTES`, R8). -/
abbrev Block := Bytes 16

/-- A raw key: exactly 32 bytes (`KEY_BYTES`, R8). -/
abbrev Key := Bytes 32

/-- The round-key set: exactly ten blocks (`NUM_ROUND_KEYS`, R8). -/
abbrev RoundKeys := Vector Block 10

/-- `zeros(n)` for a string of fixed length (R11). -/
def zeros (n : Nat) : Bytes n := Vector.replicate n 0

end Sys2Proof
end

