-- ==== Sys2Proof/Syntax.lean ====
section
/-!
DEFINITION. The commands of the core: one constructor per row of spec/opcode_table.json (spec/30_encoding.md rule
R56). A `len` is the `LEN` field and an `idx` the `IDX` field of the command word (R54), each an 8-bit field.
-/

namespace Sys2Proof

/-- The fifteen commands of R56. -/
inductive Instr where
  /-- `NOP` (R106). -/
  | nop
  /-- `KEYEXP len` (R88). -/
  | keyexp (len : Byte)
  /-- `KEYCLR` (R89). -/
  | keyclr
  /-- `ENC len` (R94). -/
  | enc (len : Byte)
  /-- `DEC len` (R95). -/
  | dec (len : Byte)
  /-- `OFBINIT len` (R97). -/
  | ofbinit (len : Byte)
  /-- `OFB len` (R98). -/
  | ofb (len : Byte)
  /-- `SUB` (R77). -/
  | sub
  /-- `SUBI` (R78). -/
  | subi
  /-- `LT` (R79). -/
  | lt
  /-- `LTI` (R80). -/
  | lti
  /-- `RST` (R81). -/
  | rst
  /-- `RSTI` (R82). -/
  | rsti
  /-- `GFMUL idx` (R83). -/
  | gfmul (idx : Byte)
  /-- `RCON idx` (R84). -/
  | rcon (idx : Byte)
  deriving DecidableEq, Repr

end Sys2Proof
end

