-- ==== Sys2Proof/WellFormed.lean ====
section
/-!
DEFINITION. Which terms of `Instr` are commands of the core (spec/30_encoding.md rules R56 and R57): every value of
`LEN` is a legal encoding (R55), and `IDX` must be in the range its opcode gives it.
-/

namespace Sys2Proof

/-- `GFMUL` needs 0 ≤ IDX ≤ 15 (R57, R83). -/
def gfmulIndexOk (idx : Byte) : Bool := decide (idx.toNat ≤ 15)

/-- `RCON` needs 1 ≤ IDX ≤ 32 (R57, R84). -/
def rconIndexOk (idx : Byte) : Bool := decide (1 ≤ idx.toNat ∧ idx.toNat ≤ 32)

/-- The instruction is one that some legal command word encodes (R57). -/
def Instr.wellFormed : Instr → Bool
  | .nop => true
  | .keyexp _ => true
  | .keyclr => true
  | .enc _ => true
  | .dec _ => true
  | .ofbinit _ => true
  | .ofb _ => true
  | .sub => true
  | .subi => true
  | .lt => true
  | .lti => true
  | .rst => true
  | .rsti => true
  | .gfmul idx => gfmulIndexOk idx
  | .rcon idx => rconIndexOk idx

end Sys2Proof
end

