-- ==== Sys2Proof/Decode.lean ====
section
/-!
DEFINITION. Command words (spec/30_encoding.md rules R54 to R59): the fields, the legality test `Legal`, the decoder,
which is total and rejects by name, and the encoder. There is one format and one length (R54, R59).
-/

namespace Sys2Proof

/-- `OP = w[7:0]` (R54, R55). -/
def fieldOp (w : Word) : Byte := w.extractLsb' 0 8

/-- `IDX = w[15:8]` (R54, R55). -/
def fieldIdx (w : Word) : Byte := w.extractLsb' 8 8

/-- `LEN = w[23:16]` (R54, R55). -/
def fieldLen (w : Word) : Byte := w.extractLsb' 16 8

/-- `RSV = w[31:24]` (R54). -/
def fieldRsv (w : Word) : Byte := w.extractLsb' 24 8

/-- The opcodes of the map (R56). -/
def assignedOpcodes : List Byte :=
  [0x00, 0x01, 0x02, 0x10, 0x11, 0x20, 0x21, 0x30, 0x31, 0x32, 0x33, 0x34, 0x35, 0x38, 0x39]

/-- The opcodes that take an `IDX` (R57). -/
def indexOpcodes : List Byte := [0x38, 0x39]

/-- The opcodes that take a `LEN` (R57). -/
def lengthOpcodes : List Byte := [0x01, 0x10, 0x11, 0x20, 0x21]

/-- `Legal(w)`, line by line as R57 writes it. -/
def legal (w : Word) : Bool :=
  if fieldRsv w ≠ 0 then false
  else if fieldOp w ∉ assignedOpcodes then false
  else if fieldOp w ∉ indexOpcodes ∧ fieldIdx w ≠ 0 then false
  else if fieldOp w ∉ lengthOpcodes ∧ fieldLen w ≠ 0 then false
  else if fieldOp w = 0x38 ∧ 15 < (fieldIdx w).toNat then false
  else if fieldOp w = 0x39 ∧ ((fieldIdx w).toNat < 1 ∨ 32 < (fieldIdx w).toNat) then false
  else true

/-- Why a word is illegal (R58). Every reason has the same effect, `ILLEGAL_COMMAND` (R107). -/
inductive DecodeError where
  /-- `RSV` is not zero. -/
  | reservedNotZero
  /-- `OP` is outside the opcode map. -/
  | unassignedOpcode
  /-- An `IDX` the opcode does not use is not zero. -/
  | indexNotZero
  /-- A `LEN` the opcode does not use is not zero. -/
  | lengthNotZero
  /-- `IDX` is out of the range of `GFMUL` or `RCON`. -/
  | indexOutOfRange
  /-- A command is not exactly four bytes (R59). -/
  | notOneWord
  deriving DecidableEq, Repr

/-- A command whose `IDX` and `LEN` must both be zero (R56). -/
def plainCommand (idx len : Byte) (i : Instr) : Except DecodeError Instr :=
  if idx ≠ 0 then .error .indexNotZero
  else if len ≠ 0 then .error .lengthNotZero
  else .ok i

/-- A command that takes a `LEN` and whose `IDX` must be zero (R56). -/
def lengthCommand (idx : Byte) (i : Instr) : Except DecodeError Instr :=
  if idx ≠ 0 then .error .indexNotZero else .ok i

/-- A command that takes an `IDX` in a range and whose `LEN` must be zero (R56). -/
def indexCommand (len : Byte) (inRange : Bool) (i : Instr) : Except DecodeError Instr :=
  if len ≠ 0 then .error .lengthNotZero
  else if inRange then .ok i
  else .error .indexOutOfRange

/-- The opcode map (R56) over the three fields that are not reserved. -/
def decodeFields (op idx len : Byte) : Except DecodeError Instr :=
  match op with
  | 0x00#8 => plainCommand idx len .nop
  | 0x01#8 => lengthCommand idx (.keyexp len)
  | 0x02#8 => plainCommand idx len .keyclr
  | 0x10#8 => lengthCommand idx (.enc len)
  | 0x11#8 => lengthCommand idx (.dec len)
  | 0x20#8 => lengthCommand idx (.ofbinit len)
  | 0x21#8 => lengthCommand idx (.ofb len)
  | 0x30#8 => plainCommand idx len .sub
  | 0x31#8 => plainCommand idx len .subi
  | 0x32#8 => plainCommand idx len .lt
  | 0x33#8 => plainCommand idx len .lti
  | 0x34#8 => plainCommand idx len .rst
  | 0x35#8 => plainCommand idx len .rsti
  | 0x38#8 => indexCommand len (gfmulIndexOk idx) (.gfmul idx)
  | 0x39#8 => indexCommand len (rconIndexOk idx) (.rcon idx)
  | _ => .error .unassignedOpcode

/-- The command a word stands for, or the name of what is wrong with it (R57, R58). -/
def decodeWord (w : Word) : Except DecodeError Instr :=
  if fieldRsv w ≠ 0 then .error .reservedNotZero
  else decodeFields (fieldOp w) (fieldIdx w) (fieldLen w)

/-- The same from the four bytes of the word in lane order, lowest lane first (R38); any other length is no
command (R59). -/
def decodeBytes : List Byte → Except DecodeError Instr
  | [b0, b1, b2, b3] => decodeWord (b3 ++ b2 ++ b1 ++ b0)
  | _ => .error .notOneWord

/-- The word with the given fields and `RSV = 0` (R54). -/
def commandWord (op idx len : Byte) : Word := 0#8 ++ len ++ idx ++ op

/-- The command word of an instruction, from the encoding column of R56 and R60. -/
def encode : Instr → Word
  | .nop => commandWord 0x00 0 0
  | .keyexp len => commandWord 0x01 0 len
  | .keyclr => commandWord 0x02 0 0
  | .enc len => commandWord 0x10 0 len
  | .dec len => commandWord 0x11 0 len
  | .ofbinit len => commandWord 0x20 0 len
  | .ofb len => commandWord 0x21 0 len
  | .sub => commandWord 0x30 0 0
  | .subi => commandWord 0x31 0 0
  | .lt => commandWord 0x32 0 0
  | .lti => commandWord 0x33 0 0
  | .rst => commandWord 0x34 0 0
  | .rsti => commandWord 0x35 0 0
  | .gfmul idx => commandWord 0x38 idx 0
  | .rcon idx => commandWord 0x39 idx 0

/-- The four bytes of a word in lane order (R38). -/
def wordLanes (w : Word) : List Byte :=
  [w.extractLsb' 0 8, w.extractLsb' 8 8, w.extractLsb' 16 8, w.extractLsb' 24 8]

/-- The instruction read from a table row's bits: a command is one 32-bit word (R54), handed to the decoder as the
four byte lanes of the `CMD` write (R38). Bits at and above `nbits` are zero; bits above 31 are no command word. -/
def decodeTableWord (nbits w : Nat) : Option Instr :=
  if w % 2 ^ nbits < 2 ^ 32 then
    (decodeBytes (wordLanes (BitVec.ofNat 32 (w % 2 ^ nbits)))).toOption
  else none

end Sys2Proof
end

