-- ==== Sys2Proof/Config.lean ====
section
/-!
DEFINITION. What a build of the core fixes (spec/00_scope.md rules R8 and R9): the configuration record of the
tables and the capacity of the OFB register. The reference values stand in Sys2Proof/Machine/Tables.lean.
-/

namespace Sys2Proof

/-- The one configuration record of rule R9. Every constant table of the core (`PI`, `PINV`, `GF`, `C`) is a
function of it alone. -/
structure CipherTables where
  /-- `PI`, the forward substitution table (R63). -/
  pi : Bytes 256
  /-- `COEF[0..15]`, the multiplier constants of the step R by byte position (R68). -/
  coef : Bytes 16
  /-- `GF_POLY`, the field polynomial, bit k being the coefficient of x^k (R69). -/
  gfPoly : BitVec 9
  deriving DecidableEq, Repr

/-- The parameters of a build that some rule observes (R8): the tables and `ZMAX` (`OFB_MAX_BLOCKS`). They are an
argument of the model: the state carries them and no step changes them (assumption 4). -/
structure Build where
  tables : CipherTables
  zmax : Nat
  deriving DecidableEq, Repr

/-- What R8, R63 and R68 ask of a build: 2 ≤ ZMAX ≤ 15, `PI` a permutation of the bytes, `COEF[15] = 1`. -/
abbrev Build.WellFormed (b : Build) : Prop :=
  2 ≤ b.zmax ∧ b.zmax ≤ 15 ∧ b.tables.pi.toList.Nodup ∧ b.tables.coef[15] = 1

/-- OPEN parameter `CORE_BASE` (R8, R36), in units of the window size: a free value, nothing constrains it. -/
opaque Config.coreBaseIndex : Nat

/-- `CORE_BASE`, a multiple of 0x400 (R36). -/
def Config.coreBase : Nat := 0x400 * Config.coreBaseIndex

end Sys2Proof
end

