-- ==== Sys2Proof/Machine/State.lean ====
section
/-!
DEFINITION. The state of the core (spec/10_state.md rules R17 to R35), the events the host puts on its port
(spec/10_state.md rule R16, spec/20_memory.md rule R40, spec/70_reset_and_hazards.md rule R120), what the port
answers, and the reasons a step can stop.
-/

namespace Sys2Proof.Machine

/-- The result codes of `ERR` (R109); their numbers are `ErrorCode.code`. No other value is ever written. -/
inductive ErrorCode where
  /-- `OK`: the command succeeded. -/
  | ok
  /-- `INVALID_KEY_SIZE`: `KEYEXP` with LEN ≠ 32. -/
  | invalidKeySize
  /-- `INVALID_BLOCK_SIZE`: `ENC` or `DEC` with LEN ≠ 16. -/
  | invalidBlockSize
  /-- `INVALID_IV`: `OFBINIT` with a LEN that is no IV length. -/
  | invalidIv
  /-- `INVALID_DATA`: `OFB` with LEN > 16. -/
  | invalidData
  /-- `ILLEGAL_COMMAND`: the word is not legal. -/
  | illegalCommand
  /-- `NO_KEY`: `KV = 0`. -/
  | noKey
  /-- `OFB_NOT_READY`: `OFBST` is not `RUNNING`. -/
  | ofbNotReady
  deriving DecidableEq, Repr

/-- The values of `OFBST` (R25). The value 3 never occurs, so it has no constructor. -/
inductive OfbState where
  /-- `UNINIT`: no session. -/
  | uninit
  /-- `RUNNING`: the register is populated. -/
  | running
  /-- `TAIL_DONE`: a final partial block has been taken. -/
  | tailDone
  deriving DecidableEq, Repr

/-- One access by a bus master: its width in bytes and its byte offset in the window (R36, R40). A write carries the
32 bits of a word access; an access of another width is never accepted, so its data have no effect (assumption 9). -/
inductive Access where
  | read (size off : Nat)
  | write (size off : Nat) (data : Word)
  deriving DecidableEq, Repr

/-- What can reach the core from outside (R16, R120). -/
inductive HostEvent where
  /-- A bus access; one that is an accepted write to `CMD` includes the whole command (R16, R105). -/
  | access (a : Access)
  /-- The reset input is asserted between two accesses (R120). -/
  | reset
  /-- The reset input is asserted while the command of a `CMD` write of `w` is in progress (R120). -/
  | resetDuringCommand (w : Word)
  deriving DecidableEq, Repr

/-- What the port answers to the last event. -/
inductive Reply where
  /-- Nothing has been answered since reset. -/
  | none
  /-- A read completed with this word (R43). -/
  | data (w : Word)
  /-- A write completed normally (R44, R105). -/
  | done
  /-- The bus error response `BusFault(off)` (R114). -/
  | busFault (off : Nat)
  /-- The access was cut short by reset: its outcome is `BUS_PROTOCOL`'s, not the core's (R120). -/
  | cutByReset
  deriving DecidableEq, Repr

/-- The state of the core. `build` holds the parameters (R8, R9), which no step changes; `pending` and `reply` are the
model's own fields for the host's side of the port (assumptions 1 and 3); every other field is a register of
spec/10_state.md. `STATUS` and `INFO` are views of these fields (R27, R28); `CMD` holds no state (R29). -/
structure State where
  /-- The parameters of this build (R8, R9). -/
  build : Build
  /-- `KEY` (R17). -/
  key : Key
  /-- `RK[0..9]` (R18). -/
  rk : RoundKeys
  /-- `KV` (R19). -/
  kv : Bool
  /-- `DIN` (R20). -/
  din : Block
  /-- `DOUT` (R21). -/
  dout : Block
  /-- `IVBUF`, `16 × ZMAX` bytes (R22). -/
  ivbuf : List Byte
  /-- `OFBREG`, `16 × ZMAX` bytes (R23). -/
  ofbreg : List Byte
  /-- `OFBZ`, 0..ZMAX (R24). -/
  ofbz : Nat
  /-- `OFBST` (R25). -/
  ofbst : OfbState
  /-- `ERR` (R26). -/
  err : ErrorCode
  /-- Model's own: the host events that have yet to reach the core, in the order in which they reach it (R48, R51). -/
  pending : List HostEvent
  /-- Model's own: the port's answer to the last event. -/
  reply : Reply
  deriving DecidableEq, Repr

/-- Why the machine stops. A command error (R112) and a bus error response (R114) do not stop it: both are next
states. -/
inductive Fault where
  /-- Raised by `step` for an event that names an offset outside 0x000..0x3FF. The core's one address space has no such
  offset (R36), so no such access can reach the core. SAFE: the model stops where the core sees nothing at all. -/
  | outsideWindow (off : Nat)
  deriving DecidableEq, Repr

/-- Why an instruction has no meaning. -/
inductive Refusal where
  /-- An instruction without a meaning in this model. Every instruction has one, so nothing raises it. SAFE: it would
  only stop the model. -/
  | notModelled (mnemonic : String)
  deriving DecidableEq, Repr

/-- The outcome of a command or of a step. -/
abbrev Result := Host.Outcome State Fault Refusal

/-- The state right after reset of a given build: the table of R35. -/
def State.resetOf (b : Build) : State :=
  { build := b
    key := zeros 32
    rk := Vector.replicate 10 (zeros 16)
    kv := false
    din := zeros 16
    dout := zeros 16
    ivbuf := List.replicate (16 * b.zmax) 0
    ofbreg := List.replicate (16 * b.zmax) 0
    ofbz := 0
    ofbst := .uninit
    err := .ok
    pending := []
    reply := .none }

/-- The reference core right after reset (R35). No host event is pending. -/
def State.reset : State := State.resetOf referenceBuild

end Sys2Proof.Machine
end

