-- ==== Sys2Proof/Machine/Operands.lean ====
section
/-!
DEFINITION. The operand forms of the commands and of the host's accesses: byte strings with the operators of
spec/00_scope.md rule R11, and the byte lanes of a word (spec/20_memory.md rule R38).
-/

namespace Sys2Proof.Machine

/-- `x.byte(j)` (R11); 0 where the string has no byte j. -/
def byteAt {n : Nat} (x : Bytes n) (j : Nat) : Byte := x[j]?.getD 0

/-- The string of `n` bytes whose byte j is `f j`. -/
def ofBytes (n : Nat) (f : Nat → Byte) : Bytes n := ⟨((List.range n).map f).toArray, by simp⟩

/-- `x ^ y`: the bytewise XOR of two strings of equal length (R11, R75). -/
def xorBytes {n : Nat} (x y : Bytes n) : Bytes n := ofBytes n fun j => byteAt x j ^^^ byteAt y j

/-- `x.byte(j)` of a register whose length depends on `ZMAX`; 0 where the register has no byte j. -/
def listByte (x : List Byte) (j : Nat) : Byte := x[j]?.getD 0

/-- `zeros(n)` as a string of variable length (R11). -/
def zeroList (n : Nat) : List Byte := List.replicate n 0

/-- `x.bytes(i, n)` of a string of variable length (R11). -/
def sliceList (x : List Byte) (i n : Nat) : List Byte := (x.drop i).take n

/-- The block `x.bytes(i, 16)` (R11). -/
def blockAt (x : List Byte) (i : Nat) : Block := ofBytes 16 fun j => listByte x (i + j)

/-- `k.bytes(i, 16)` of a key (R11, R17). -/
def keyHalf (k : Key) (i : Nat) : Block := ofBytes 16 fun j => byteAt k (i + j)

/-- `RK[i]` (R18). -/
def roundKey (rk : RoundKeys) (i : Nat) : Block := rk[i]?.getD (zeros 16)

/-- `w[8k+7:8k]`, the byte in lane k of a word (R38). -/
def lane (w : Word) (k : Nat) : Byte := w.extractLsb' (8 * k) 8

/-- The word whose lanes 0..3 hold the four bytes (R38). -/
def packWord (b0 b1 b2 b3 : Byte) : Word := b3 ++ b2 ++ b1 ++ b0

/-- *word of X at i* (R43). -/
def wordAt {n : Nat} (x : Bytes n) (i : Nat) : Word :=
  packWord (byteAt x i) (byteAt x (i + 1)) (byteAt x (i + 2)) (byteAt x (i + 3))

/-- *word of X at i* (R43) of a register whose length depends on `ZMAX`. -/
def listWordAt (x : List Byte) (i : Nat) : Word :=
  packWord (listByte x i) (listByte x (i + 1)) (listByte x (i + 2)) (listByte x (i + 3))

/-- `for k in 0..3: X.byte(i+k) <- w[8k+7:8k]` (R44). -/
def setWord {n : Nat} (x : Bytes n) (i : Nat) (w : Word) : Bytes n :=
  ofBytes n fun j => if i ≤ j ∧ j < i + 4 then lane w (j - i) else byteAt x j

/-- The same store into a register whose length depends on `ZMAX` (R44). -/
def listSetWord (x : List Byte) (i : Nat) (w : Word) : List Byte :=
  (((x.set i (lane w 0)).set (i + 1) (lane w 1)).set (i + 2) (lane w 2)).set (i + 3) (lane w 3)

end Sys2Proof.Machine
end

