-- ==== Sys2Proof/Machine/Transform.lean ====
section
/-!
DEFINITION. The substitution layer, the GF(2^8) multiplier table, the step R, the linear transform L and the round
constants (spec/40_substitution_linear.md rules R63 to R76), as functions of the configuration record (R9).
-/

namespace Sys2Proof.Machine

/-- `PI[v]` (R63). -/
def piByte (t : CipherTables) (v : Byte) : Byte := byteAt t.pi v.toNat

/-- `PINV[v]`: the index at which `PI` holds v (R64). It exists and is unique because `PI` is a permutation. -/
def pinvByte (t : CipherTables) (v : Byte) : Byte := BitVec.ofNat 8 (t.pi.toList.idxOf v)

/-- `S(a)`: each byte through `PI` (R66). -/
def substitute (t : CipherTables) (a : Block) : Block := ofBytes 16 fun j => piByte t (byteAt a j)

/-- `S_inv(a)`: each byte through `PINV` (R67). -/
def substituteInv (t : CipherTables) (a : Block) : Block := ofBytes 16 fun j => pinvByte t (byteAt a j)

/-- One shift of the multiplicand of `gf`: times x, reduced by the low 8 bits of `GF_POLY` (R69). -/
def timesX (t : CipherTables) (a : Byte) : Byte :=
  bif a.getLsbD 7 then (a <<< 1) ^^^ t.gfPoly.setWidth 8 else a <<< 1

/-- `gf(a, b)`: multiplication in GF(2^8), bit-serial as R69 writes it; the pair is (r, a) of its loop. -/
def gf (t : CipherTables) (a b : Byte) : Byte :=
  ((List.range 8).foldl
    (fun ra k => (bif b.getLsbD k then ra.1 ^^^ ra.2 else ra.1, timesX t ra.2))
    ((0, a) : Byte × Byte)).1

/-- `GF[j][v] = gf(COEF[j], v)` (R70). -/
def gfTable (t : CipherTables) (j : Nat) (v : Byte) : Byte := gf t (byteAt t.coef j) v

/-- The XOR of `f 0 .. f (n-1)`. -/
def xorSum (n : Nat) (f : Nat → Byte) : Byte := (List.range n).foldl (fun s j => s ^^^ f j) 0

/-- The step `R`: the new byte 0 is the sum of the products, and byte j moves to position j+1 (R71). -/
def rStep (t : CipherTables) (a : Block) : Block :=
  let s := xorSum 16 fun j => gfTable t j (byteAt a j)
  ofBytes 16 fun j => if j = 0 then s else byteAt a (j - 1)

/-- The step `R_inv`: byte j+1 moves to position j, and the vacated last byte is recomputed (R72). -/
def rStepInv (t : CipherTables) (a : Block) : Block :=
  let s := byteAt a 0 ^^^ xorSum 15 fun j => gfTable t j (byteAt a (j + 1))
  ofBytes 16 fun j => if j = 15 then s else byteAt a (j + 1)

/-- `n` applications of `f`. -/
def iterate (f : Block → Block) : Nat → Block → Block
  | 0, a => a
  | n + 1, a => iterate f n (f a)

/-- `L(a)`: 16 applications of `R` (R73). -/
def linear (t : CipherTables) (a : Block) : Block := iterate (rStep t) 16 a

/-- `L_inv(a)`: 16 applications of `R_inv` (R74). -/
def linearInv (t : CipherTables) (a : Block) : Block := iterate (rStepInv t) 16 a

/-- `e_i`: zero bytes except the last byte set to i (R76). -/
def unitBlock (i : Byte) : Block := ofBytes 16 fun j => if j = 15 then i else 0

/-- `C[i] = L(e_i)` (R76). -/
def roundConstant (t : CipherTables) (i : Byte) : Block := linear t (unitBlock i)

/-- One row of the multiplier table over all lanes: byte k is `GF[j][a.byte(k)]` (R83). -/
def gfRow (t : CipherTables) (j : Nat) (a : Block) : Block := ofBytes 16 fun k => gfTable t j (byteAt a k)

end Sys2Proof.Machine
end

