-- ==== Sys2Proof/Machine/BlockPrimitive.lean ====
section
/-!
DEFINITION. The block primitive (spec/42_block_primitive.md rules R91 and R92): nine full rounds and a final XOR.
-/

namespace Sys2Proof.Machine

/-- One round of encryption, `L(S(x ^ K[r]))` (R91). -/
def encryptRound (t : CipherTables) (k : RoundKeys) (x : Block) (r : Nat) : Block :=
  linear t (substitute t (xorBytes x (roundKey k r)))

/-- `Encrypt(K, x)`: rounds 0..8, then the XOR with `K[9]` (R91). -/
def encrypt (t : CipherTables) (k : RoundKeys) (x : Block) : Block :=
  xorBytes ((List.range 9).foldl (encryptRound t k) x) (roundKey k 9)

/-- One round of decryption, `S_inv(L_inv(y)) ^ K[r]` (R92). -/
def decryptRound (t : CipherTables) (k : RoundKeys) (y : Block) (r : Nat) : Block :=
  xorBytes (substituteInv t (linearInv t y)) (roundKey k r)

/-- `Decrypt(K, y)`: the XOR with `K[9]`, then rounds 8..0 (R92; the mirrored structure of 90_conflicts.md C1). -/
def decrypt (t : CipherTables) (k : RoundKeys) (y : Block) : Block :=
  (List.range 9).reverse.foldl (decryptRound t k) (xorBytes y (roundKey k 9))

end Sys2Proof.Machine
end

