-- ==== Sys2Proof/Machine/Flags.lean ====
section
/-!
DEFINITION. The status fields and the words that show them: `ERR` codes (spec/60_exceptions.md rule R109), `OFBST`
codes (spec/10_state.md rule R25), `STATUS` (R27) and `INFO` (R28).
-/

namespace Sys2Proof.Machine

/-- The 8-bit code of a result (R109). -/
def errorCode : ErrorCode → Byte
  | .ok => 0x00
  | .invalidKeySize => 0x01
  | .invalidBlockSize => 0x02
  | .invalidIv => 0x03
  | .invalidData => 0x04
  | .illegalCommand => 0x10
  | .noKey => 0x11
  | .ofbNotReady => 0x12

/-- The 2-bit code of the OFB state (R25). -/
def ofbStateCode : OfbState → BitVec 2
  | .uninit => 0
  | .running => 1
  | .tailDone => 2

/-- `STATUS`: `zext_32(ERR) | KV << 8 | OFBST << 9 | OFBZ << 16` (R27). -/
def statusWord (s : State) : Word :=
  (errorCode s.err).setWidth 32
    ||| ((BitVec.ofBool s.kv).setWidth 32 <<< 8)
    ||| ((ofbStateCode s.ofbst).setWidth 32 <<< 9)
    ||| ((BitVec.ofNat 8 s.ofbz).setWidth 32 <<< 16)

/-- `INFO`: `BLK`, `NRK`, `ZMAX`, `VERSION` from the top byte down (R28). -/
def infoWord (b : Build) : Word := 0x10#8 ++ 0x0A#8 ++ BitVec.ofNat 8 b.zmax ++ 0x01#8

end Sys2Proof.Machine
end

