-- ==== Sys2Proof/Machine/Ops.lean ====
section
/-!
DEFINITION. The named operations on the state that every command and every access is made of. Taking an error
(spec/60_exceptions.md rule R112) is `raiseError`; the core has no traps, and there is no return from an error
(R113, R115): the next command simply overwrites `ERR`.
-/

namespace Sys2Proof.Machine

/-- `ERR <- code`. -/
def setErr (c : ErrorCode) (s : State) : State := { s with err := c }

/-- `raise Error(code)`: the command stops with `ERR <- code` and nothing else changes (R112). -/
def raiseError (c : ErrorCode) (s : State) : Result := .next (setErr c s)

/-- The command ends with `ERR <- OK` (R26). -/
def succeed (s : State) : Result := .next (setErr .ok s)

/-- `DOUT <- b`. -/
def setDout (b : Block) (s : State) : State := { s with dout := b }

/-- `DOUT <- b; ERR <- OK`: how every successful block-producing command ends (R21). -/
def deliver (b : Block) (s : State) : Result := succeed (setDout b s)

/-- `KEY <- zeros(32)` (R17, R88, R89). -/
def wipeKey (s : State) : State := { s with key := zeros 32 }

/-- All ten round keys and `KV` together (R18, R19). -/
def setSchedule (k : RoundKeys) (valid : Bool) (s : State) : State := { s with rk := k, kv := valid }

/-- `OFBREG <- zeros(16*ZMAX); OFBZ <- 0; OFBST <- UNINIT` (R88, R89). -/
def endSession (s : State) : State :=
  { s with ofbreg := zeroList (16 * s.build.zmax), ofbz := 0, ofbst := .uninit }

/-- `OFBREG <- reg; OFBZ <- z; OFBST <- RUNNING` (R97). -/
def startSession (reg : List Byte) (z : Nat) (s : State) : State :=
  { s with ofbreg := reg, ofbz := z, ofbst := .running }

/-- `OFBREG <- reg` (R99). -/
def setOfbReg (reg : List Byte) (s : State) : State := { s with ofbreg := reg }

/-- `OFBST <- TAIL_DONE` (R100). -/
def markTailDone (s : State) : State := { s with ofbst := .tailDone }

/-- The port answers `r`. -/
def setReply (r : Reply) (s : State) : State := { s with reply := r }

/-- The host events still to come. -/
def setPending (es : List HostEvent) (s : State) : State := { s with pending := es }

/-- Every register takes its reset value (R120); the build and the host's pending events are not registers. -/
def resetRegisters (r : Reply) (s : State) : State :=
  { State.resetOf s.build with pending := s.pending, reply := r }

end Sys2Proof.Machine
end

