-- ==== Sys2Proof/Machine/BlockCommands.lean ====
section
/-!
DEFINITION. The block commands `ENC` and `DEC` (spec/42_block_primitive.md rules R94 and R95).
-/

namespace Sys2Proof.Machine

/-- The checks of `ENC` and `DEC` in their order, `NO_KEY` before `INVALID_BLOCK_SIZE` (R94, R95, R111), and then the
result block. -/
def blockCommand (len : Byte) (result : Block) (s : State) : Result :=
  if s.kv = false then raiseError .noKey s
  else if len.toNat ≠ 16 then raiseError .invalidBlockSize s
  else deliver result s

/-- `ENC len` (R94). -/
def execEnc (len : Byte) (s : State) : Result := blockCommand len (encrypt s.build.tables s.rk s.din) s

/-- `DEC len` (R95). -/
def execDec (len : Byte) (s : State) : Result := blockCommand len (decrypt s.build.tables s.rk s.din) s

end Sys2Proof.Machine
end

