-- ==== Sys2Proof/Machine/ControlCommands.lean ====
section
/-!
DEFINITION. The control family (spec/44_control.md): `NOP`, and what an illegal word does.
-/

namespace Sys2Proof.Machine

/-- `NOP`: `ERR <- OK` (R106). -/
def execNop (s : State) : Result := succeed s

/-- An illegal word: `ERR <- ILLEGAL_COMMAND` and nothing else (R107). -/
def illegalWord (s : State) : Result := raiseError .illegalCommand s

end Sys2Proof.Machine
end

