-- ==== Sys2Proof/Machine/KeySchedule.lean ====
section
/-!
DEFINITION. The key schedule (spec/41_key_schedule.md rules R85 and R86), a function of the 32 key bytes and the
configuration record alone (R87).
-/

namespace Sys2Proof.Machine

/-- The Feistel round function `F(a, c) = L(S(a ^ c))` (R85). -/
def feistelF (t : CipherTables) (a c : Block) : Block := linear t (substitute t (xorBytes a c))

/-- One inner round: `(a, b) := (F(a, C[idx]) ^ b, a)` (R86). -/
def feistelRound (t : CipherTables) (ab : Block × Block) (idx : Nat) : Block × Block :=
  (xorBytes (feistelF t ab.1 (roundConstant t (BitVec.ofNat 8 idx))) ab.2, ab.1)

/-- The eight inner rounds of outer iteration `o`, with `idx` running from 8·o + 1 to 8·o + 8 (R86). -/
def feistelGroup (t : CipherTables) (o : Nat) (ab : Block × Block) : Block × Block :=
  (List.range 8).foldl (fun ab r => feistelRound t ab (8 * o + r + 1)) ab

/-- `KeySchedule(k)`: the key halves, then the pair after each of the four outer iterations (R86). -/
def keySchedule (t : CipherTables) (k : Key) : RoundKeys :=
  let p1 := feistelGroup t 0 (keyHalf k 0, keyHalf k 16)
  let p2 := feistelGroup t 1 p1
  let p3 := feistelGroup t 2 p2
  let p4 := feistelGroup t 3 p3
  #v[keyHalf k 0, keyHalf k 16, p1.1, p1.2, p2.1, p2.2, p3.1, p3.2, p4.1, p4.2]

end Sys2Proof.Machine
end

