-- ==== Sys2Proof/Machine/KeyCommands.lean ====
section
/-!
DEFINITION. The key schedule commands `KEYEXP` and `KEYCLR` (spec/41_key_schedule.md rules R88 and R89).
-/

namespace Sys2Proof.Machine

/-- `KEYEXP len` (R88): a size error wipes `KEY` first; otherwise the schedule of `KEY` is installed, `KEY` is wiped and
any OFB session ends. -/
def execKeyexp (len : Byte) (s : State) : Result :=
  if len.toNat ≠ 32 then raiseError .invalidKeySize (wipeKey s)
  else succeed (endSession (wipeKey (setSchedule (keySchedule s.build.tables s.key) true s)))

/-- `KEYCLR` (R89): key, schedule and OFB state are wiped. It cannot fail. -/
def execKeyclr (s : State) : Result :=
  succeed (endSession (setSchedule (Vector.replicate 10 (zeros 16)) false (wipeKey s)))

end Sys2Proof.Machine
end

