-- ==== Sys2Proof/Machine/OfbCommands.lean ====
section
/-!
DEFINITION. The OFB mode controller: `OFBINIT` and `OFB` (spec/43_ofb.md rules R96 to R101).
-/

namespace Sys2Proof.Machine

/-- The keystream block `gamma = Encrypt(RK, OFBREG.bytes(0, 16))` (R96). -/
def gamma (s : State) : Block := encrypt s.build.tables s.rk (blockAt s.ofbreg 0)

/-- LEN is an IV length: not 0, a multiple of 16, and not above `16·ZMAX` (R97). -/
def ivLengthOk (len zmax : Nat) : Bool := len != 0 && len % 16 == 0 && decide (len ≤ 16 * zmax)

/-- `OFBINIT len` (R97). -/
def execOfbinit (len : Byte) (s : State) : Result :=
  if s.kv = false then raiseError .noKey s
  else if ivLengthOk len.toNat s.build.zmax = false then raiseError .invalidIv s
  else
    succeed (startSession
      (sliceList s.ivbuf 0 len.toNat ++ zeroList (16 * s.build.zmax - len.toNat)) (len.toNat / 16) s)

/-- The register after a full block: the leading block dropped, gamma appended at the tail (R99). -/
def shiftedRegister (s : State) : List Byte :=
  sliceList s.ofbreg 16 (16 * s.ofbz - 16) ++ (gamma s).toList ++ zeroList (16 * s.build.zmax - 16 * s.ofbz)

/-- Case LEN = 16 of `OFB`: one full block (R99). -/
def ofbFullBlock (s : State) : Result := deliver (xorBytes (gamma s) s.din) (setOfbReg (shiftedRegister s) s)

/-- The output of a final partial block of `n` bytes: gamma XOR data, then zeros (R100). -/
def tailOutput (n : Nat) (g d : Block) : Block := ofBytes 16 fun j => if j < n then byteAt g j ^^^ byteAt d j else 0

/-- Case 1 ≤ LEN ≤ 15 of `OFB`: the final partial block; the register is not advanced (R100). -/
def ofbTail (n : Nat) (s : State) : Result := deliver (tailOutput n (gamma s) s.din) (markTailDone s)

/-- `OFB len`: the checks in their order, then one of the three cases (R98 to R101). -/
def execOfb (len : Byte) (s : State) : Result :=
  if s.kv = false then raiseError .noKey s
  else if s.ofbst ≠ .running then raiseError .ofbNotReady s
  else if 16 < len.toNat then raiseError .invalidData s
  else if len.toNat = 16 then ofbFullBlock s
  else if len.toNat = 0 then succeed s
  else ofbTail len.toNat s

end Sys2Proof.Machine
end

