-- ==== Sys2Proof/Machine/TableCommands.lean ====
section
/-!
DEFINITION. The eight diagnostic commands (spec/40_substitution_linear.md rules R77 to R84). They need no key and no
OFB state, and never fail once legal.
-/

namespace Sys2Proof.Machine

/-- `SUB`: `DOUT <- S(DIN)` (R77). -/
def execSub (s : State) : Result := deliver (substitute s.build.tables s.din) s

/-- `SUBI`: `DOUT <- S_inv(DIN)` (R78). -/
def execSubi (s : State) : Result := deliver (substituteInv s.build.tables s.din) s

/-- `LT`: `DOUT <- L(DIN)` (R79). -/
def execLt (s : State) : Result := deliver (linear s.build.tables s.din) s

/-- `LTI`: `DOUT <- L_inv(DIN)` (R80). -/
def execLti (s : State) : Result := deliver (linearInv s.build.tables s.din) s

/-- `RST`: `DOUT <- R(DIN)` (R81). -/
def execRst (s : State) : Result := deliver (rStep s.build.tables s.din) s

/-- `RSTI`: `DOUT <- R_inv(DIN)` (R82). -/
def execRsti (s : State) : Result := deliver (rStepInv s.build.tables s.din) s

/-- `GFMUL idx`: one multiplier row over all lanes; an index above 15 is an illegal command (R83). -/
def execGfmul (idx : Byte) (s : State) : Result :=
  if gfmulIndexOk idx then deliver (gfRow s.build.tables idx.toNat s.din) s
  else raiseError .illegalCommand s

/-- `RCON idx`: one round constant; an index outside 1..32 is an illegal command (R84). -/
def execRcon (idx : Byte) (s : State) : Result :=
  if rconIndexOk idx then deliver (roundConstant s.build.tables idx) s
  else raiseError .illegalCommand s

end Sys2Proof.Machine
end

