-- ==== Sys2Proof/Machine/Dispatch.lean ====
section
/-!
DEFINITION. The meaning of every command (spec/44_control.md rule R105), one arm per constructor.
-/

namespace Sys2Proof.Machine

/-- What a legal command does (the case split of R105). -/
def exec (i : Instr) (s : State) : Host.Outcome State Fault Refusal :=
  match i with
  | .nop => Sys2Proof.Machine.execNop s
  | .keyexp len => Sys2Proof.Machine.execKeyexp len s
  | .keyclr => Sys2Proof.Machine.execKeyclr s
  | .enc len => Sys2Proof.Machine.execEnc len s
  | .dec len => Sys2Proof.Machine.execDec len s
  | .ofbinit len => Sys2Proof.Machine.execOfbinit len s
  | .ofb len => Sys2Proof.Machine.execOfb len s
  | .sub => Sys2Proof.Machine.execSub s
  | .subi => Sys2Proof.Machine.execSubi s
  | .lt => Sys2Proof.Machine.execLt s
  | .lti => Sys2Proof.Machine.execLti s
  | .rst => Sys2Proof.Machine.execRst s
  | .rsti => Sys2Proof.Machine.execRsti s
  | .gfmul idx => Sys2Proof.Machine.execGfmul idx s
  | .rcon idx => Sys2Proof.Machine.execRcon idx s

end Sys2Proof.Machine
end

