-- ==== Sys2Proof/Machine/Window.lean ====
section
/-!
DEFINITION. The register window (spec/20_memory.md rules R36 to R44): which accesses the core accepts, what a read
returns, and what a write stores. A write to `CMD` is issued in Sys2Proof/Machine/Issue.lean.
-/

namespace Sys2Proof.Machine

/-- The window's size: offsets 0x000..0x3FF (R36). -/
def windowSize : Nat := 0x400

/-- The byte offset an access names. -/
def Access.offset : Access → Nat
  | .read _ off => off
  | .write _ off _ => off

/-- The width of an access in bytes. -/
def Access.width : Access → Nat
  | .read size _ => size
  | .write size _ _ => size

/-- The core accepts only a 32-bit access at a multiple of 4 (R40). -/
def accepted (a : Access) : Bool := a.width == 4 && a.offset % 4 == 0

/-- `BusRead(off)` of an accepted read (R43): `STATUS`, `INFO`, `DIN`, `DOUT`, `IVBUF` and `OFBREG`; `CMD`, `KEY` and
every reserved offset read 0. -/
def busRead (off : Nat) (s : State) : Word :=
  if off = 0x004 then statusWord s
  else if off = 0x008 then infoWord s.build
  else if 0x040 ≤ off ∧ off ≤ 0x04C then wordAt s.din (off - 0x040)
  else if 0x050 ≤ off ∧ off ≤ 0x05C then wordAt s.dout (off - 0x050)
  else if 0x100 ≤ off ∧ off ≤ 0x1EC then
    if off - 0x100 < 16 * s.build.zmax then listWordAt s.ivbuf (off - 0x100) else 0
  else if 0x200 ≤ off ∧ off ≤ 0x2EC then
    if off - 0x200 < 16 * s.build.zmax then listWordAt s.ofbreg (off - 0x200) else 0
  else 0

/-- The byte that a read of the window shows at a byte offset: its lane of the aligned word there (R38). -/
def windowByte (off : Nat) (s : State) : Byte := lane (busRead (off - off % 4) s) (off % 4)

/-- `KEY` after a word write at byte index i (R44). -/
def storeKey (i : Nat) (w : Word) (s : State) : State := { s with key := setWord s.key i w }

/-- `DIN` after a word write at byte index i (R44). -/
def storeDin (i : Nat) (w : Word) (s : State) : State := { s with din := setWord s.din i w }

/-- `IVBUF` after a word write at byte index i; ignored beyond `16·ZMAX` (R44). -/
def storeIv (i : Nat) (w : Word) (s : State) : State :=
  { s with ivbuf := if i < 16 * s.build.zmax then listSetWord s.ivbuf i w else s.ivbuf }

/-- `BusWrite(off, w)` of an accepted write to any offset but `CMD` (R44): `KEY`, `DIN` and `IVBUF` store the bytes;
`STATUS`, `INFO`, `DOUT`, `OFBREG` and reserved offsets ignore it. -/
def storeWindow (off : Nat) (w : Word) (s : State) : State :=
  if 0x020 ≤ off ∧ off ≤ 0x03C then storeKey (off - 0x020) w s
  else if 0x040 ≤ off ∧ off ≤ 0x04C then storeDin (off - 0x040) w s
  else if 0x100 ≤ off ∧ off ≤ 0x1EC then storeIv (off - 0x100) w s
  else s

/-- The window offset of an address of the host's map, if the window at `CORE_BASE` covers it (R36). -/
def windowOffset (addr : Nat) : Option Nat :=
  if Config.coreBase ≤ addr ∧ addr - Config.coreBase < windowSize then some (addr - Config.coreBase) else none

/-- `MemRead(addr, 4)`, which means `BusRead(addr - CORE_BASE)` (R14); none where the address is not the core's. -/
def memRead (addr : Nat) : Option Access := (windowOffset addr).map fun off => .read 4 off

/-- `MemWrite(addr, 4, v)`, which means `BusWrite(addr - CORE_BASE, v)` (R14). -/
def memWrite (addr : Nat) (v : Word) : Option Access := (windowOffset addr).map fun off => .write 4 off v

end Sys2Proof.Machine
end

