-- ==== Sys2Proof/Machine/Issue.lean ====
section
/-!
DEFINITION. Command issue (spec/44_control.md rule R105) and what each host event does to the core
(spec/20_memory.md rules R40 to R44, spec/70_reset_and_hazards.md rule R120).
-/

namespace Sys2Proof.Machine

/-- `Execute(w)` (R105): an illegal word is reported, a legal one runs its command to completion. -/
def execute (w : Word) (s : State) : Result :=
  match decodeWord w with
  | .ok i => exec i s
  | .error _ => illegalWord s

/-- `BusWrite(off, w)` of an accepted write (R44). The bus response is a normal completion whatever `ERR` the command
leaves (R105, R112). -/
def busWrite (off : Nat) (w : Word) (s : State) : Result :=
  if off = 0x000 then execute w (setReply .done s)
  else .next (storeWindow off w (setReply .done s))

/-- One bus access. An access the core does not accept is answered by a bus error and changes nothing (R40, R114). -/
def performAccess (a : Access) (s : State) : Result :=
  if windowSize ≤ a.offset then .fault (.outsideWindow a.offset)
  else if accepted a = false then .next (setReply (.busFault a.offset) s)
  else
    match a with
    | .read _ off => .next (setReply (.data (busRead off s)) s)
    | .write _ off w => busWrite off w s

/-- One host event. Reset gives every register its reset value; a command it interrupts is abandoned, and none of its
results survive (R120). -/
def perform (e : HostEvent) (s : State) : Result :=
  match e with
  | .access a => performAccess a s
  | .reset => .next (resetRegisters .none s)
  | .resetDuringCommand _ => .next (resetRegisters .cutByReset s)

end Sys2Proof.Machine
end

