-- ==== Sys2Proof/Machine/Step.lean ====
section
/-!
DEFINITION. The one step of the model: the next host event (spec/10_state.md rule R16). The core takes no step of its
own, so with no event pending nothing changes.
-/

namespace Sys2Proof.Machine

/-- The next pending host event reaches the core and takes effect whole (R16, R41, R48). -/
def step (s : State) : Host.Outcome State Fault Refusal :=
  match s.pending with
  | [] => .next s
  | e :: rest => perform e (setPending rest s)

/-- The state in which the next event is the host's write of a command word to `CMD`: a command is not fetched, it is
the data of a bus write (R30, R54). Bits of the word at and above `nbits` are zero. -/
def State.withFetchWord (s : State) (nbits w : Nat) : State :=
  { s with pending := .access (.write 4 0x000 (BitVec.ofNat 32 (w % 2 ^ nbits))) :: s.pending }

end Sys2Proof.Machine
end

