-- ==== Sys2Proof/Machine/Assembler.lean ====
section
/-!
DEFINITION. The assembly language for host command sequences (spec/30_encoding.md rules R60 and R61): what each
statement puts on the bus. Numeric operands are unbounded in the language; the assembler refuses one that does not fit.
-/

namespace Sys2Proof.Machine

/-- The statements of R60 and the pseudo-instructions of R61. -/
inductive Stmt where
  | wr (off w : Nat)
  | rd (off : Nat)
  | nop
  | keyexp (len : Nat)
  | keyclr
  | enc (len : Nat)
  | dec (len : Nat)
  | ofbinit (len : Nat)
  | ofb (len : Nat)
  | sub
  | subi
  | lt
  | lti
  | rst
  | rsti
  | gfmul (j : Nat)
  | rcon (i : Nat)
  | cmd (w : Nat)
  /-- `keyexp` without an operand. -/
  | keyexpPlain
  /-- `enc` without an operand. -/
  | encPlain
  /-- `dec` without an operand. -/
  | decPlain
  /-- `ofb` without an operand. -/
  | ofbPlain
  | ofbenc (len : Nat)
  | ofbdec (len : Nat)
  | ofbinitb (z : Nat)
  | ldkey (bytes : List Byte)
  | ldin (bytes : List Byte)
  | ldiv (bytes : List Byte)
  | rdout
  | rdst
  deriving DecidableEq, Repr

/-- An operand of an 8-bit field, if it fits (R60). -/
def fieldOperand (n : Nat) : Option Byte := if n < 256 then some (BitVec.ofNat 8 n) else none

/-- The `CMD` write of a command the decoder accepts; an operand that `Legal` rejects is refused (R60). -/
def commandWrite (i : Instr) : Option (List Access) :=
  if i.wellFormed then some [.write 4 0x000 (encode i)] else none

/-- A command with one field operand (R60). -/
def commandWith (f : Byte → Instr) (n : Nat) : Option (List Access) := (fieldOperand n).bind fun b => commandWrite (f b)

/-- The word writes that load a byte string at a window offset, four bytes a word, lowest byte first (R61). -/
def loadWrites (base : Nat) (bytes : List Byte) : List Access :=
  (List.range (bytes.length / 4)).map fun i => .write 4 (base + 4 * i) (listWordAt bytes (4 * i))

/-- `wr OFF, W`: one bus write. A write to `CMD` of a word that `Legal` rejects is refused, because `cmd W` is the only way
to write an illegal word (R60). -/
def busWriteStatement (off w : Nat) : Option (List Access) :=
  if off < 0x400 ∧ w < 2 ^ 32 ∧ (off = 0x000 → legal (BitVec.ofNat 32 w) = true) then
    some [.write 4 off (BitVec.ofNat 32 w)]
  else none

/-- What a statement puts on the bus, in order; none where the assembler refuses it (R60, R61). -/
def assemble (zmax : Nat) : Stmt → Option (List Access)
  | .wr off w => busWriteStatement off w
  | .rd off => if off < 0x400 then some [.read 4 off] else none
  | .nop => commandWrite .nop
  | .keyexp len => commandWith .keyexp len
  | .keyclr => commandWrite .keyclr
  | .enc len => commandWith .enc len
  | .dec len => commandWith .dec len
  | .ofbinit len => commandWith .ofbinit len
  | .ofb len => commandWith .ofb len
  | .sub => commandWrite .sub
  | .subi => commandWrite .subi
  | .lt => commandWrite .lt
  | .lti => commandWrite .lti
  | .rst => commandWrite .rst
  | .rsti => commandWrite .rsti
  | .gfmul j => commandWith .gfmul j
  | .rcon i => commandWith .rcon i
  | .cmd w => if w < 2 ^ 32 then some [.write 4 0x000 (BitVec.ofNat 32 w)] else none
  | .keyexpPlain => commandWith .keyexp 32
  | .encPlain => commandWith .enc 16
  | .decPlain => commandWith .dec 16
  | .ofbPlain => commandWith .ofb 16
  | .ofbenc len => commandWith .ofb len
  | .ofbdec len => commandWith .ofb len
  | .ofbinitb z => commandWith .ofbinit (16 * z)
  | .ldkey bytes => if bytes.length = 32 then some (loadWrites 0x020 bytes) else none
  | .ldin bytes => if bytes.length = 16 then some (loadWrites 0x040 bytes) else none
  | .ldiv bytes =>
    if bytes.length % 4 = 0 ∧ bytes.length ≤ 16 * zmax then some (loadWrites 0x100 bytes) else none
  | .rdout => some [.read 4 0x050, .read 4 0x054, .read 4 0x058, .read 4 0x05C]
  | .rdst => some [.read 4 0x004]

/-- The host events of a sequence of statements; none where the assembler refuses one of them. -/
def assembleAll (zmax : Nat) : List Stmt → Option (List HostEvent)
  | [] => some []
  | st :: rest =>
    (assemble zmax st).bind fun accesses =>
      (assembleAll zmax rest).map fun es => accesses.map HostEvent.access ++ es

end Sys2Proof.Machine
end

