-- ==== Sys2Proof/Machine/Stream.lean ====
section
/-!
DEFINITION. The stream semantics of OFB (spec/43_ofb.md rule R103): the source's driver as a function on byte strings,
and the sequence of `OFB` commands that the rule compares with it.
-/

namespace Sys2Proof.Machine

/-- The bytewise XOR of two strings of variable length, as long as the shorter one. -/
def xorList (x y : List Byte) : List Byte := List.zipWith (fun a b => a ^^^ b) x y

/-- `n` full blocks of `OFBStream` and then the tail (R103): the output string and the register it leaves. -/
def streamFrom (t : CipherTables) (k : RoundKeys) : Nat → List Byte → List Byte → List Byte × List Byte
  | 0, reg, p => (xorList ((encrypt t k (blockAt reg 0)).toList.take p.length) p, reg)
  | n + 1, reg, p =>
    let g := (encrypt t k (blockAt reg 0)).toList
    let rest := streamFrom t k n (reg.drop 16 ++ g) (p.drop 16)
    (xorList g (p.take 16) ++ rest.1, rest.2)

/-- `OFBStream(K, iv, p)` (R103): every full block of p, then a tail of fewer than 16 bytes. -/
def ofbStream (t : CipherTables) (k : RoundKeys) (iv p : List Byte) : List Byte × List Byte :=
  streamFrom t k (p.length / 16) iv p

/-- One `OFB len` with `DIN` holding the next bytes of the data; the state it leaves, if it succeeds. -/
def ofbOn (len : Byte) (p : List Byte) (s : State) : Option State :=
  match exec (.ofb len) { s with din := blockAt p 0 } with
  | .next t => if t.err = .ok then some t else none
  | .fault _ => none
  | .refused _ => none

/-- One `ofb 16` for each of `n` full blocks of p, then one `ofb r` for a tail of r > 0 bytes (R103): the concatenation
of the outputs and the state at the end. -/
def ofbCommands : Nat → List Byte → State → Option (List Byte × State)
  | 0, p, s =>
    if p = [] then some ([], s)
    else (ofbOn (BitVec.ofNat 8 p.length) p s).map fun t => (t.dout.toList.take p.length, t)
  | n + 1, p, s =>
    (ofbOn 16 p s).bind fun t =>
      (ofbCommands n (p.drop 16) t).map fun r => (t.dout.toList ++ r.1, r.2)

end Sys2Proof.Machine
end

