-- ==== Sys2Proof/Safety.lean ====
section
/-!
DEFINITION. What holds in every state the core can reach (spec/10_state.md rule R34), and which states those are.
-/

namespace Sys2Proof.Machine

/-- The build is one the spec allows, and the two registers whose size depends on `ZMAX` have it (R8, R22, R23). -/
abbrev State.WidthsOk (s : State) : Prop :=
  s.build.WellFormed ∧ s.ivbuf.length = 16 * s.build.zmax ∧ s.ofbreg.length = 16 * s.build.zmax

/-- (I1) `KV = 0` ⇒ every `RK[i] = zeros(16)` (R34). -/
abbrev State.NoKeyNoSchedule (s : State) : Prop := s.kv = false → s.rk = Vector.replicate 10 (zeros 16)

/-- (I2) `OFBST ≠ UNINIT` ⇒ `KV = 1` and `1 ≤ OFBZ ≤ ZMAX` (R34). -/
abbrev State.SessionHasKey (s : State) : Prop :=
  s.ofbst ≠ .uninit → s.kv = true ∧ 1 ≤ s.ofbz ∧ s.ofbz ≤ s.build.zmax

/-- (I3) `OFBST = UNINIT` ⇒ `OFBZ = 0` and `OFBREG = zeros(16·ZMAX)` (R34). -/
abbrev State.NoSessionNoRegister (s : State) : Prop :=
  s.ofbst = .uninit → s.ofbz = 0 ∧ s.ofbreg = zeroList (16 * s.build.zmax)

/-- (I4) every byte of `OFBREG` at index ≥ `16·OFBZ` is zero (R34). -/
abbrev State.DeadBytesZero (s : State) : Prop :=
  s.ofbreg.drop (16 * s.ofbz) = zeroList (s.ofbreg.length - 16 * s.ofbz)

/-- The invariants I1 to I4 of R34 with the widths they speak of. (I5), `OFBST ≠ 3`, holds by the type of `OFBST`. -/
abbrev State.Inv (s : State) : Prop :=
  s.WidthsOk ∧ s.NoKeyNoSchedule ∧ s.SessionHasKey ∧ s.NoSessionNoRegister ∧ s.DeadBytesZero

/-- The states reachable from reset of a build, for every sequence of host events (R16, R34, R51). -/
inductive Reachable (b : Build) : State → Prop where
  /-- The state after reset, with any host events to come. -/
  | reset (events : List HostEvent) : Reachable b (setPending events (State.resetOf b))
  /-- One step further. -/
  | step {s t : State} (h : Reachable b s) (ht : Sys2Proof.Machine.step s = .next t) : Reachable b t

/-- The event names an offset of the core's address space (R36). -/
def HostEvent.inWindow : HostEvent → Bool
  | .access a => decide (a.offset < windowSize)
  | .reset => true
  | .resetDuringCommand _ => true

end Sys2Proof.Machine
end

