-- ==== Sys2Proof/Certificates/Slice0/Obligations.lean ====
section
/-!
DEFINITION. The statements for the provers, from the numbered rules of spec/. Each docstring names the rule, and says
where the rule is one that the spec itself marks as derived. The fields `build`, `pending` and `reply` of the state
are the model's own (assumptions 1, 3 and 4): what a statement says of them is the model's choice, whatever rule it
cites.
-/

open Sys2Proof Sys2Proof.Machine

/-! ## Command words (spec/30_encoding.md) -/

/-- R54, R56: the decoder reads every well-formed command back from the word the encoder writes, with every operand
at every value its field admits. -/
def Obligations.EncodedCommandDecodesToItself : Prop :=
  ∀ i : Instr, i.wellFormed = true → decodeWord (encode i) = .ok i

/-- R54, R59: a word the decoder accepts is well formed and is the one word of its command, so no bit is dropped. -/
def Obligations.DecodedWordIsItsEncoding : Prop :=
  ∀ (w : Word) (i : Instr), decodeWord w = .ok i → i.wellFormed = true ∧ encode i = w

/-- R57: the decoder accepts exactly the legal words; the conditions are those of `Legal(w)`, on the bits of w. -/
def Obligations.DecoderAcceptsExactlyLegalWords : Prop :=
  ∀ w : Word, (∃ i, decodeWord w = .ok i) ↔
    (let op := w.extractLsb' 0 8
     let idx := w.extractLsb' 8 8
     let len := w.extractLsb' 16 8
     let rsv := w.extractLsb' 24 8
     rsv = 0 ∧
     op ∈ ([0x00, 0x01, 0x02, 0x10, 0x11, 0x20, 0x21, 0x30, 0x31, 0x32, 0x33, 0x34, 0x35, 0x38, 0x39] : List Byte) ∧
     (op ∉ ([0x38, 0x39] : List Byte) → idx = 0) ∧
     (op ∉ ([0x01, 0x10, 0x11, 0x20, 0x21] : List Byte) → len = 0) ∧
     (op = 0x38 → idx.toNat ≤ 15) ∧
     (op = 0x39 → 1 ≤ idx.toNat ∧ idx.toNat ≤ 32))

/-- R56, R62: one word written out from the opcode map for each of the fifteen opcodes decodes to the command it
stands for, and the two illegal words of R62 to none. -/
def Obligations.WrittenOutWordsDecode : Prop :=
  decodeWord 0x00000000 = .ok .nop ∧ decodeWord 0x00200001 = .ok (.keyexp 32) ∧
  decodeWord 0x00000002 = .ok .keyclr ∧ decodeWord 0x00100010 = .ok (.enc 16) ∧
  decodeWord 0x00100011 = .ok (.dec 16) ∧ decodeWord 0x00200020 = .ok (.ofbinit 32) ∧
  decodeWord 0x00050021 = .ok (.ofb 5) ∧ decodeWord 0x00000030 = .ok .sub ∧
  decodeWord 0x00000031 = .ok .subi ∧ decodeWord 0x00000032 = .ok .lt ∧
  decodeWord 0x00000033 = .ok .lti ∧ decodeWord 0x00000034 = .ok .rst ∧
  decodeWord 0x00000035 = .ok .rsti ∧
  decodeWord 0x00000F38 = .ok (.gfmul 15) ∧ decodeWord 0x00002039 = .ok (.rcon 32) ∧
  decodeWord 0x01000000 = .error .reservedNotZero ∧ decodeWord 0x00100030 = .error .lengthNotZero

/-! ## The step and the register window (spec/20_memory.md, spec/44_control.md, spec/60_exceptions.md) -/

/-- R105: when the next host event is the write of a legal word to `CMD`, the step runs that command and the write
completes normally. -/
def Obligations.StepRunsDecodedCommand : Prop :=
  ∀ (s : State) (w : Word) (rest : List HostEvent) (i : Instr),
    s.pending = .access (.write 4 0x000 w) :: rest → decodeWord w = .ok i →
      step s = exec i { s with pending := rest, reply := .done }

/-- R107: an illegal word sets `ERR` to `ILLEGAL_COMMAND` (0x10) and changes no register, key byte, flag or OFB
state; `KEY` is not wiped. -/
def Obligations.IllegalWordOnlyReports : Prop :=
  errorCode .illegalCommand = 0x10 ∧
  ∀ (s : State) (w : Word) (rest : List HostEvent),
    s.pending = .access (.write 4 0x000 w) :: rest → legal w = false →
      step s = .next { s with pending := rest, reply := .done, err := .illegalCommand }

/-- R40, R114: an access that is not a 32-bit access at a multiple of 4 gets a bus error response; no register
changes, `ERR` included, no command runs, and no data are returned. -/
def Obligations.UnacceptedAccessOnlyGetsBusFault : Prop :=
  ∀ (s : State) (a : Access) (rest : List HostEvent),
    s.pending = .access a :: rest → a.offset < 0x400 → ¬ (a.width = 4 ∧ a.offset % 4 = 0) →
      step s = .next { s with pending := rest, reply := .busFault a.offset }

/-- R42, R43: an accepted read answers the word at its offset and changes no register. -/
def Obligations.ReadAnswersWordAndChangesNothing : Prop :=
  ∀ (s : State) (off : Nat) (rest : List HostEvent),
    s.pending = .access (.read 4 off) :: rest → off < 0x400 → off % 4 = 0 →
      step s = .next { s with pending := rest, reply := .data (busRead off s) }

/-- R37, R38, R43: what each byte of the window reads as: the lanes of `STATUS` and `INFO`; `DIN`, `DOUT`, `IVBUF`
and `OFBREG` byte by byte; and 0 at `CMD`, `KEY`, every reserved offset, and `IVBUF` and `OFBREG` beyond `16·ZMAX`. -/
def Obligations.WindowBytesShowTheMappedRegisters : Prop :=
  ∀ (s : State) (off : Nat), s.build.zmax ≤ 15 → off < 0x400 →
    (0x004 ≤ off → off < 0x008 → windowByte off s = (statusWord s).extractLsb' (8 * (off - 0x004)) 8) ∧
    (0x008 ≤ off → off < 0x00C → windowByte off s = (infoWord s.build).extractLsb' (8 * (off - 0x008)) 8) ∧
    (0x040 ≤ off → off < 0x050 → windowByte off s = byteAt s.din (off - 0x040)) ∧
    (0x050 ≤ off → off < 0x060 → windowByte off s = byteAt s.dout (off - 0x050)) ∧
    (0x100 ≤ off → off < 0x100 + 16 * s.build.zmax → windowByte off s = listByte s.ivbuf (off - 0x100)) ∧
    (0x200 ≤ off → off < 0x200 + 16 * s.build.zmax → windowByte off s = listByte s.ofbreg (off - 0x200)) ∧
    (off < 0x004 ∨ (0x00C ≤ off ∧ off < 0x040) ∨ (0x060 ≤ off ∧ off < 0x100) ∨
      (0x100 + 16 * s.build.zmax ≤ off ∧ off < 0x200) ∨ 0x200 + 16 * s.build.zmax ≤ off → windowByte off s = 0)

/-- R44: an accepted write to any offset but `CMD` stores lane k of its word in byte off + k of `KEY`, `DIN` or the
implemented part of `IVBUF`, whichever lies there, and changes nothing else. -/
def Obligations.WindowWriteStoresItsLanes : Prop :=
  ∀ (s : State) (off : Nat) (w : Word) (rest : List HostEvent),
    s.pending = .access (.write 4 off w) :: rest → 0 < off → off < 0x400 → off % 4 = 0 →
    s.build.zmax ≤ 15 → s.ivbuf.length = 16 * s.build.zmax →
      ∃ t, step s = .next t ∧
        t = { s with key := t.key, din := t.din, ivbuf := t.ivbuf, pending := rest, reply := .done } ∧
        t.ivbuf.length = s.ivbuf.length ∧
        (∀ j, j < 32 → byteAt t.key j =
          if off ≤ 0x020 + j ∧ 0x020 + j < off + 4 then lane w (0x020 + j - off) else byteAt s.key j) ∧
        (∀ j, j < 16 → byteAt t.din j =
          if off ≤ 0x040 + j ∧ 0x040 + j < off + 4 then lane w (0x040 + j - off) else byteAt s.din j) ∧
        (∀ j, j < 16 * s.build.zmax → listByte t.ivbuf j =
          if off ≤ 0x100 + j ∧ 0x100 + j < off + 4 then lane w (0x100 + j - off) else listByte s.ivbuf j)

/-- R48: a write to `DIN` or to the implemented part of `IVBUF`, followed by a read of the same offset, returns the
written word. -/
def Obligations.WrittenWordReadsBack : Prop :=
  ∀ (s : State) (off : Nat) (w : Word) (rest : List HostEvent),
    s.pending = .access (.write 4 off w) :: .access (.read 4 off) :: rest → off % 4 = 0 →
    s.build.zmax ≤ 15 → s.ivbuf.length = 16 * s.build.zmax →
    (0x040 ≤ off ∧ off < 0x050) ∨ (0x100 ≤ off ∧ off < 0x100 + 16 * s.build.zmax) →
      ∃ t u, step s = .next t ∧ step t = .next u ∧ u.reply = .data w

/-- R25, R27: the fields of `STATUS`, its reserved bits 0, and `OFBST` as 0, 1 or 2 for its three values and never
3; it is what a read of 0x004 returns. -/
def Obligations.StatusWordShowsItsFields : Prop :=
  ofbStateCode .uninit = 0 ∧ ofbStateCode .running = 1 ∧ ofbStateCode .tailDone = 2 ∧
  ∀ s : State,
    busRead 0x004 s = statusWord s ∧
    (statusWord s).extractLsb' 0 8 = errorCode s.err ∧
    (statusWord s).getLsbD 8 = s.kv ∧
    (statusWord s).extractLsb' 9 2 = ofbStateCode s.ofbst ∧
    (statusWord s).extractLsb' 9 2 ≠ 3 ∧
    (statusWord s).extractLsb' 11 5 = 0 ∧
    (statusWord s).extractLsb' 16 8 = BitVec.ofNat 8 s.ofbz ∧
    (statusWord s).extractLsb' 24 8 = 0

/-- R28: the fields of `INFO`, which is what a read of 0x008 returns. -/
def Obligations.InfoWordShowsTheBuild : Prop :=
  ∀ s : State,
    busRead 0x008 s = infoWord s.build ∧
    (infoWord s.build).extractLsb' 0 8 = 0x01 ∧
    (infoWord s.build).extractLsb' 8 8 = BitVec.ofNat 8 s.build.zmax ∧
    (infoWord s.build).extractLsb' 16 8 = 0x0A ∧
    (infoWord s.build).extractLsb' 24 8 = 0x10

/-- R17, R18, R33: no offset shows key material: what the window reads as does not depend on `KEY` or `RK`. -/
def Obligations.NoOffsetShowsKeyMaterial : Prop :=
  ∀ (s : State) (k : Key) (r : RoundKeys) (off : Nat),
    busRead off { s with key := k, rk := r } = busRead off s ∧
    windowByte off { s with key := k, rk := r } = windowByte off s

/-- R17, R33: `KEY` is read only by `KEYEXP`: for every event but the `CMD` write of a `KEYEXP` with LEN = 32, two
states that differ in `KEY` alone step to states that differ in `KEY` alone, with the same answer on the port. -/
def Obligations.KeyReachesNothingButKeyexp : Prop :=
  ∀ (s t : State) (k : Key),
    (∀ w rest, s.pending = .access (.write 4 0x000 w) :: rest → decodeWord w ≠ .ok (.keyexp 32)) →
    step s = .next t → ∃ k', step { s with key := k } = .next { t with key := k' }

/-- R14, R36 (`CORE_BASE` is a free value, assumption 17): an address of the host's map is the core's exactly when
it lies in the 0x400 bytes at `CORE_BASE`, a multiple of 0x400, and its access is then the bus access at the
difference. -/
def Obligations.HostAddressesReachTheWindowAtCoreBase : Prop :=
  Config.coreBase % 0x400 = 0 ∧
  (∀ off v, off < 0x400 → memRead (Config.coreBase + off) = some (.read 4 off) ∧
    memWrite (Config.coreBase + off) v = some (.write 4 off v)) ∧
  (∀ addr v, addr < Config.coreBase ∨ 0x400 ≤ addr - Config.coreBase → memRead addr = none ∧ memWrite addr v = none)

/-! ## Reset, invariants, and rules about the whole machine -/

/-- R35: the reset value of every register, for every build: `STATUS` reads 0, `INFO` reads its constant, and the
constant tables are those of the build; the reference core is the build of the reference tables with ZMAX = 4. -/
def Obligations.ResetValues : Prop :=
  State.reset = State.resetOf ⟨referenceTables, 4⟩ ∧
  ∀ b : Build,
    (State.resetOf b).build = b ∧ (∀ j, byteAt (State.resetOf b).key j = 0) ∧
    (∀ i j, byteAt (roundKey (State.resetOf b).rk i) j = 0) ∧ (State.resetOf b).kv = false ∧
    (∀ j, byteAt (State.resetOf b).din j = 0) ∧ (∀ j, byteAt (State.resetOf b).dout j = 0) ∧
    (State.resetOf b).ivbuf = zeroList (16 * b.zmax) ∧ (State.resetOf b).ofbreg = zeroList (16 * b.zmax) ∧
    (State.resetOf b).ofbz = 0 ∧ (State.resetOf b).ofbst = .uninit ∧ (State.resetOf b).err = .ok ∧
    busRead 0x004 (State.resetOf b) = 0x00000000 ∧
    busRead 0x008 (State.resetOf b) = 0x10#8 ++ 0x0A#8 ++ BitVec.ofNat 8 b.zmax ++ 0x01#8

/-- R120: asserting reset, between accesses or during a command, gives every register its reset value and keeps the
build; what the port answers is the model's choice (assumption 6). -/
def Obligations.ResetRestoresEveryRegister : Prop :=
  ∀ (s : State) (w : Word) (rest : List HostEvent),
    (s.pending = .reset :: rest →
      step s = .next { State.resetOf s.build with pending := rest, reply := .none }) ∧
    (s.pending = .resetDuringCommand w :: rest →
      step s = .next { State.resetOf s.build with pending := rest, reply := .cutByReset })

/-- R8, R34, R35: the reset state of every well-formed build satisfies the invariant. -/
def Obligations.ResetSatisfiesTheInvariant : Prop :=
  State.reset.Inv ∧ ∀ b : Build, b.WellFormed → (State.resetOf b).Inv

/-- R34 (marked as derived in the spec): every step keeps the invariants I1 to I4 and the widths they speak of, from
every state that has them. -/
def Obligations.StepKeepsTheInvariant : Prop :=
  ∀ s t : State, s.Inv → step s = .next t → t.Inv

/-- R34 (marked as derived in the spec): the invariants I1 to I5 hold in every state reachable from reset, under
every sequence of host events. -/
def Obligations.ReachableStatesSatisfyI1ToI5 : Prop :=
  ∀ (b : Build) (s : State), b.WellFormed → Reachable b s →
    (s.kv = false → ∀ i j, byteAt (roundKey s.rk i) j = 0) ∧
    (s.ofbst ≠ .uninit → s.kv = true ∧ 1 ≤ s.ofbz ∧ s.ofbz ≤ b.zmax) ∧
    (s.ofbst = .uninit → s.ofbz = 0 ∧ s.ofbreg = zeroList (16 * b.zmax)) ∧
    (∀ j, 16 * s.ofbz ≤ j → listByte s.ofbreg j = 0) ∧
    ofbStateCode s.ofbst ≠ 3

/-- R36, R112, R114: a step never refuses, and faults only on an event that names an offset outside the window (the
fault is the model's own, assumption 5); a command error or a bus error is a next state. -/
def Obligations.StepStopsOnlyOutsideTheWindow : Prop :=
  ∀ s : State,
    ((∃ t, step s = .next t) ∧ ∀ e rest, s.pending = e :: rest → e.inWindow = true) ∨
    (∃ a rest, s.pending = .access a :: rest ∧ 0x400 ≤ a.offset ∧ step s = .fault (.outsideWindow a.offset))

/-- R9, R32, R121: no step changes the configuration record or ZMAX, so the constant tables are never written. -/
def Obligations.StepKeepsTheBuild : Prop :=
  ∀ s t : State, step s = .next t → t.build = s.build

/-- R20, R22, R45 (the last marked as derived): no command writes `DIN` or `IVBUF` (nor, in the model, the port's
fields or the build). -/
def Obligations.CommandsKeepTheirInputs : Prop :=
  ∀ (i : Instr) (s t : State), exec i s = .next t →
    t.din = s.din ∧ t.ivbuf = s.ivbuf ∧ t.build = s.build ∧ t.pending = s.pending ∧ t.reply = s.reply

/-- R18, R19: a step changes `RK` or `KV` only when it is a successful `KEYEXP`, a `KEYCLR` or reset. -/
def Obligations.ScheduleChangesOnlyByKeyCommandsAndReset : Prop :=
  ∀ s t : State, step s = .next t → t.rk ≠ s.rk ∨ t.kv ≠ s.kv →
    (∃ w rest, s.pending = .access (.write 4 0x000 w) :: rest ∧
      ((decodeWord w = .ok (.keyexp 32) ∧ t.err = .ok) ∨ decodeWord w = .ok .keyclr)) ∨
    (∃ rest, s.pending = .reset :: rest) ∨ (∃ w rest, s.pending = .resetDuringCommand w :: rest)

/-- R112: a command that ends in an error changes `ERR` and nothing else, but for the wipe of `KEY` by a `KEYEXP`
with a size error. -/
def Obligations.FailedCommandChangesOnlyErr : Prop :=
  ∀ (i : Instr) (s t : State), exec i s = .next t → t.err ≠ .ok →
    t = { s with err := t.err } ∨
    (∃ len : Byte, i = .keyexp len ∧ len.toNat ≠ 32 ∧ t = { s with key := zeros 32, err := .invalidKeySize })

/-- R110 (marked as derived in the spec), R111: which error each command reports, in the order of its checks: an
illegal word before every state and length check, then state, then length; and the commands that check neither never
fail once legal. -/
def Obligations.ErrorsAreReportedInCheckOrder : Prop :=
  (∀ (s : State) (w : Word), legal w = false → execute w s = .next { s with err := .illegalCommand }) ∧
  ∀ (s : State) (len : Byte),
    (len.toNat ≠ 32 → exec (.keyexp len) s = .next { s with key := zeros 32, err := .invalidKeySize }) ∧
    (s.kv = false →
      exec (.enc len) s = .next { s with err := .noKey } ∧ exec (.dec len) s = .next { s with err := .noKey } ∧
      exec (.ofbinit len) s = .next { s with err := .noKey } ∧ exec (.ofb len) s = .next { s with err := .noKey }) ∧
    (s.kv = true →
      (len.toNat ≠ 16 → exec (.enc len) s = .next { s with err := .invalidBlockSize } ∧
        exec (.dec len) s = .next { s with err := .invalidBlockSize }) ∧
      (len.toNat = 0 ∨ len.toNat % 16 ≠ 0 ∨ 16 * s.build.zmax < len.toNat →
        exec (.ofbinit len) s = .next { s with err := .invalidIv }) ∧
      (s.ofbst ≠ .running → exec (.ofb len) s = .next { s with err := .ofbNotReady }) ∧
      (s.ofbst = .running → 16 < len.toNat → exec (.ofb len) s = .next { s with err := .invalidData })) ∧
    ∀ i ∈ ([.nop, .keyclr, .sub, .subi, .lt, .lti, .rst, .rsti, .gfmul len, .rcon len] : List Instr),
      i.wellFormed = true → ∃ t, exec i s = .next t ∧ t.err = .ok

/-- R109: the codes of `ERR`. -/
def Obligations.ErrorCodesAreThoseOfTheTable : Prop :=
  errorCode .ok = 0x00 ∧ errorCode .invalidKeySize = 0x01 ∧ errorCode .invalidBlockSize = 0x02 ∧
  errorCode .invalidIv = 0x03 ∧ errorCode .invalidData = 0x04 ∧ errorCode .illegalCommand = 0x10 ∧
  errorCode .noKey = 0x11 ∧ errorCode .ofbNotReady = 0x12

/-- R25: the transitions of `OFBST` under a command. -/
def Obligations.OfbStateTransitions : Prop :=
  ∀ (i : Instr) (s t : State), exec i s = .next t →
    (t.err ≠ .ok → t.ofbst = s.ofbst) ∧
    (t.err = .ok → ∀ len, i = .ofbinit len → t.ofbst = .running) ∧
    (t.err = .ok → ∀ len, i = .ofb len → s.ofbst = .running ∧
      (len.toNat = 0 ∨ len.toNat = 16 → t.ofbst = .running) ∧
      (1 ≤ len.toNat → len.toNat ≤ 15 → t.ofbst = .tailDone)) ∧
    (t.err = .ok → (∃ len, i = .keyexp len) ∨ i = .keyclr → t.ofbst = .uninit) ∧
    ((∀ len, i ≠ .ofbinit len) → (∀ len, i ≠ .ofb len) → (∀ len, i ≠ .keyexp len) → i ≠ .keyclr →
      t.ofbst = s.ofbst)

/-- R45 (marked as derived in the spec), the frame over the address space: a command changes no byte of the window
outside `STATUS`, `DOUT` and `OFBREG`; one that is neither a key command nor an OFB command changes none outside the
`ERR` byte of `STATUS` and `DOUT`. -/
def Obligations.CommandsChangeOnlyTheirWindowBytes : Prop :=
  ∀ (i : Instr) (s t : State) (off : Nat), exec i s = .next t →
    (off < 0x004 ∨ (0x008 ≤ off ∧ off < 0x050) ∨ (0x060 ≤ off ∧ off < 0x200) ∨ 0x2F0 ≤ off →
      windowByte off t = windowByte off s) ∧
    ((∀ len, i ≠ .keyexp len) → i ≠ .keyclr → (∀ len, i ≠ .ofbinit len) → (∀ len, i ≠ .ofb len) →
      off ≠ 0x004 → off < 0x050 ∨ 0x060 ≤ off → windowByte off t = windowByte off s)

/-! ## The functions of the cipher, for every configuration the spec allows -/

/-- R64, R67 (the inverse laws are marked as derived): `S_inv` maps each byte through the inverse of `PI`, and
undoes `S` on every block, and `S` undoes it. -/
def Obligations.SubstitutionInverse : Prop :=
  ∀ (t : CipherTables) (x : Block), t.pi.toList.Nodup →
    (∀ v : Byte, pinvByte t (piByte t v) = v ∧ piByte t (pinvByte t v) = v) ∧
    (∀ j, j < 16 → byteAt (substituteInv t x) j = pinvByte t (byteAt x j)) ∧
    substituteInv t (substitute t x) = x ∧ substitute t (substituteInv t x) = x

/-- R69 (the laws are marked as derived; that another record reduces by the low 8 bits of its own `GF_POLY` is
assumption 7): zero, one, commutative, associative, distributive over XOR; and the product by x, one shift reduced
by the low 8 bits of `GF_POLY`, which with the laws determines `gf`. -/
def Obligations.FieldMultiplicationLaws : Prop :=
  ∀ (t : CipherTables) (a b c : Byte),
    gf t 0 a = 0 ∧ gf t a 0 = 0 ∧ gf t 1 a = a ∧
    gf t a b = gf t b a ∧ gf t (gf t a b) c = gf t a (gf t b c) ∧
    gf t a (b ^^^ c) = gf t a b ^^^ gf t a c ∧ gf t (a ^^^ b) c = gf t a c ^^^ gf t b c ∧
    gf t 2 a = if a.getLsbD 7 then (a <<< 1) ^^^ t.gfPoly.setWidth 8 else a <<< 1

/-- R71: the step `R`: the new byte 0 is the XOR of the sixteen products, and every byte but the last moves up by
one. -/
def Obligations.RStepShiftsAndSums : Prop :=
  ∀ (t : CipherTables) (x : Block),
    byteAt (rStep t x) 0 =
      gf t (byteAt t.coef 0) (byteAt x 0) ^^^ gf t (byteAt t.coef 1) (byteAt x 1) ^^^
      gf t (byteAt t.coef 2) (byteAt x 2) ^^^ gf t (byteAt t.coef 3) (byteAt x 3) ^^^
      gf t (byteAt t.coef 4) (byteAt x 4) ^^^ gf t (byteAt t.coef 5) (byteAt x 5) ^^^
      gf t (byteAt t.coef 6) (byteAt x 6) ^^^ gf t (byteAt t.coef 7) (byteAt x 7) ^^^
      gf t (byteAt t.coef 8) (byteAt x 8) ^^^ gf t (byteAt t.coef 9) (byteAt x 9) ^^^
      gf t (byteAt t.coef 10) (byteAt x 10) ^^^ gf t (byteAt t.coef 11) (byteAt x 11) ^^^
      gf t (byteAt t.coef 12) (byteAt x 12) ^^^ gf t (byteAt t.coef 13) (byteAt x 13) ^^^
      gf t (byteAt t.coef 14) (byteAt x 14) ^^^ gf t (byteAt t.coef 15) (byteAt x 15) ∧
    ∀ j, j < 15 → byteAt (rStep t x) (j + 1) = byteAt x j

/-- R72 (marked as derived): `R_inv` undoes `R` on every block and `R` undoes it, where `COEF[15] = 1`. -/
def Obligations.RStepInverse : Prop :=
  ∀ (t : CipherTables) (x : Block), t.coef[15] = 1 →
    rStepInv t (rStep t x) = x ∧ rStep t (rStepInv t x) = x

/-- R73, R74: `L` is 16 applications of `R`, and `L_inv` 16 applications of `R_inv`; `L` is linear over XOR and maps
the zero block to itself (the last two are marked as derived). -/
def Obligations.LinearTransformIsLinear : Prop :=
  ∀ (t : CipherTables) (x y : Block),
    (∃ xs : Nat → Block, xs 0 = x ∧ (∀ n, n < 16 → xs (n + 1) = rStep t (xs n)) ∧ linear t x = xs 16) ∧
    (∃ xs : Nat → Block, xs 0 = x ∧ (∀ n, n < 16 → xs (n + 1) = rStepInv t (xs n)) ∧ linearInv t x = xs 16) ∧
    linear t (xorBytes x y) = xorBytes (linear t x) (linear t y) ∧ linear t (zeros 16) = zeros 16

/-- R74 (marked as derived): `L_inv` undoes `L` on every block, and `L` undoes it, where `COEF[15] = 1`. -/
def Obligations.LinearTransformInverse : Prop :=
  ∀ (t : CipherTables) (x : Block), t.coef[15] = 1 →
    linearInv t (linear t x) = x ∧ linear t (linearInv t x) = x

/-- R86, R87 (injectivity is marked as derived): `K[0]` and `K[1]` are the key halves, and distinct keys have
distinct pairs `(K[8], K[9])`. -/
def Obligations.KeyScheduleStartsWithTheKeyAndIsInjective : Prop :=
  (∀ (t : CipherTables) (k : Key) (j : Nat), j < 16 →
    byteAt (roundKey (keySchedule t k) 0) j = byteAt k j ∧
    byteAt (roundKey (keySchedule t k) 1) j = byteAt k (16 + j)) ∧
  (∀ (t : CipherTables) (k k' : Key),
    roundKey (keySchedule t k) 8 = roundKey (keySchedule t k') 8 →
    roundKey (keySchedule t k) 9 = roundKey (keySchedule t k') 9 → k = k')

/-- R86: the schedule follows one sequence of 32 Feistel rounds with `idx` running 1..32, and round keys 2 to 9 are
the pairs after 8, 16, 24 and 32 of them. -/
def Obligations.KeyScheduleRunsThirtyTwoFeistelRounds : Prop :=
  ∀ (t : CipherTables) (k : Key), ∃ p : Nat → Block × Block,
    p 0 = (roundKey (keySchedule t k) 0, roundKey (keySchedule t k) 1) ∧
    (∀ n, n < 32 → p (n + 1) =
      (xorBytes (linear t (substitute t (xorBytes (p n).1 (linear t (unitBlock (BitVec.ofNat 8 (n + 1))))))) (p n).2,
        (p n).1)) ∧
    (∀ o, o < 4 → (roundKey (keySchedule t k) (2 + 2 * o), roundKey (keySchedule t k) (3 + 2 * o)) = p (8 * o + 8))

/-- R91: `Encrypt` is nine rounds of XOR, `S` and `L`, and then the plain XOR with `K[9]`. -/
def Obligations.EncryptIsNineRoundsAndWhitening : Prop :=
  ∀ (t : CipherTables) (k : RoundKeys) (x : Block), ∃ xs : Nat → Block,
    xs 0 = x ∧ (∀ r, r < 9 → xs (r + 1) = linear t (substitute t (xorBytes (xs r) (roundKey k r)))) ∧
    encrypt t k x = xorBytes (xs 9) (roundKey k 9)

/-- R92, R93 (the laws are marked as derived): for any ten blocks as round keys, `Decrypt` and `Encrypt` undo each
other, and `Encrypt` is a permutation of the blocks. -/
def Obligations.DecryptAndEncryptAreInverse : Prop :=
  ∀ (t : CipherTables) (k : RoundKeys), t.pi.toList.Nodup → t.coef[15] = 1 →
    (∀ x, decrypt t k (encrypt t k x) = x ∧ encrypt t k (decrypt t k x) = x) ∧
    Function.Bijective (encrypt t k)

/-- R102, R103 (marked as derived): the OFB stream is its own inverse: for every key schedule, IV and data, applying
it twice gives the data back, and the output is as long as the data. -/
def Obligations.OfbStreamIsSelfInverse : Prop :=
  ∀ (t : CipherTables) (k : RoundKeys) (iv p : List Byte),
    (ofbStream t k iv p).1.length = p.length ∧ (ofbStream t k iv (ofbStream t k iv p).1).1 = p

/-! ## What each command does: its next state, whole -/

/-- R106: `NOP` sets `ERR` to `OK` and nothing else, and 0x00000000 is its only word. -/
def Obligations.NopOnlyClearsErr : Prop :=
  (∀ s : State, exec .nop s = .next { s with err := .ok }) ∧ ∀ w : Word, decodeWord w = .ok .nop ↔ w = 0x00000000

/-- R88: `KEYEXP` installs the schedule of `KEY`, wipes `KEY` and ends any session; with a wrong LEN it only wipes
`KEY` and reports. -/
def Obligations.KeyexpInstallsScheduleAndWipesKey : Prop :=
  ∀ (s : State) (len : Byte),
    (len.toNat = 32 → exec (.keyexp len) s = .next { s with
      rk := keySchedule s.build.tables s.key, kv := true, key := zeros 32
      ofbreg := zeroList (16 * s.build.zmax), ofbz := 0, ofbst := .uninit, err := .ok }) ∧
    (len.toNat ≠ 32 → exec (.keyexp len) s = .next { s with key := zeros 32, err := .invalidKeySize })

/-- R124: a second `KEYEXP` without rewriting `KEY` succeeds and installs the schedule of the all-zero key. -/
def Obligations.RepeatedKeyexpDerivesTheZeroKey : Prop :=
  ∀ s : State, ∃ t u, exec (.keyexp 32) s = .next t ∧ exec (.keyexp 32) t = .next u ∧
    u = { t with rk := keySchedule s.build.tables (zeros 32) } ∧ u.err = .ok

/-- R89: `KEYCLR` wipes `KEY`, `RK`, `KV` and the OFB state in every state, keeps `DIN`, `DOUT` and `IVBUF`, and
cannot fail; 0x00000002 is its only word. -/
def Obligations.KeyclrWipesKeyAndSession : Prop :=
  (∀ s : State, exec .keyclr s = .next { s with
    key := zeros 32, rk := Vector.replicate 10 (zeros 16), kv := false
    ofbreg := zeroList (16 * s.build.zmax), ofbz := 0, ofbst := .uninit, err := .ok }) ∧
  ∀ w : Word, decodeWord w = .ok .keyclr ↔ w = 0x00000002

/-- R94, R95: with a key and LEN = 16, `ENC` and `DEC` deliver the block in `DOUT` and change nothing else but
`ERR`. -/
def Obligations.EncAndDecDeliverTheBlock : Prop :=
  ∀ (s : State) (len : Byte), s.kv = true → len.toNat = 16 →
    exec (.enc len) s = .next { s with dout := encrypt s.build.tables s.rk s.din, err := .ok } ∧
    exec (.dec len) s = .next { s with dout := decrypt s.build.tables s.rk s.din, err := .ok }

/-- R95 (marked as derived): `ENC`, copying `DOUT` to `DIN`, and `DEC` returns the original block in `DOUT`. -/
def Obligations.DecAfterEncReturnsTheBlock : Prop :=
  ∀ s : State, s.build.WellFormed → s.kv = true →
    ∃ t u, exec (.enc 16) s = .next t ∧ exec (.dec 16) { t with din := t.dout } = .next u ∧ u.dout = s.din ∧
      u.err = .ok

/-- R97: with a key and an IV length, `OFBINIT` copies the first LEN bytes of `IVBUF`, zeros the rest of the
register, and starts a session of LEN/16 blocks. -/
def Obligations.OfbinitLoadsTheRegister : Prop :=
  ∀ (s : State) (len : Byte),
    s.kv = true → s.ivbuf.length = 16 * s.build.zmax → 1 ≤ len.toNat → len.toNat % 16 = 0 →
    len.toNat ≤ 16 * s.build.zmax →
      ∃ t, exec (.ofbinit len) s = .next t ∧
        t = { s with ofbreg := t.ofbreg, ofbz := len.toNat / 16, ofbst := .running, err := .ok } ∧
        t.ofbreg.length = 16 * s.build.zmax ∧
        ∀ j, j < 16 * s.build.zmax → listByte t.ofbreg j = if j < len.toNat then listByte s.ivbuf j else 0

/-- R96, R99: `OFB` on a full block in a running session: `DOUT` is gamma XOR `DIN`, and the register drops its
leading block and takes gamma at the tail of its live part. -/
def Obligations.OfbFullBlockAdvancesTheRegister : Prop :=
  ∀ (s : State) (len : Byte),
    s.kv = true → s.ofbst = .running → len.toNat = 16 → s.ofbreg.length = 16 * s.build.zmax →
    1 ≤ s.ofbz → s.ofbz ≤ s.build.zmax →
      ∃ t g, exec (.ofb len) s = .next t ∧ g = encrypt s.build.tables s.rk (blockAt s.ofbreg 0) ∧
        t = { s with dout := xorBytes g s.din, ofbreg := t.ofbreg, err := .ok } ∧
        t.ofbreg.length = 16 * s.build.zmax ∧
        (∀ j, j < 16 * s.ofbz - 16 → listByte t.ofbreg j = listByte s.ofbreg (j + 16)) ∧
        (∀ j, j < 16 → listByte t.ofbreg (16 * s.ofbz - 16 + j) = byteAt g j) ∧
        (∀ j, 16 * s.ofbz ≤ j → listByte t.ofbreg j = 0)

/-- R100: `OFB` on a final partial block: the first LEN bytes of `DOUT` are gamma XOR `DIN`, the others 0, `OFBREG`
is unchanged and the session is over. -/
def Obligations.OfbTailEndsTheSession : Prop :=
  ∀ (s : State) (len : Byte),
    s.kv = true → s.ofbst = .running → 1 ≤ len.toNat → len.toNat ≤ 15 →
      ∃ t g, exec (.ofb len) s = .next t ∧ g = encrypt s.build.tables s.rk (blockAt s.ofbreg 0) ∧
        t = { s with dout := t.dout, ofbst := .tailDone, err := .ok } ∧
        (∀ j, j < len.toNat → byteAt t.dout j = byteAt g j ^^^ byteAt s.din j) ∧
        (∀ j, len.toNat ≤ j → j < 16 → byteAt t.dout j = 0)

/-- R101: `OFB` with LEN = 0 in a running session succeeds and changes nothing but `ERR`. -/
def Obligations.OfbOfNoBytesOnlyReportsSuccess : Prop :=
  ∀ (s : State) (len : Byte), s.kv = true → s.ofbst = .running → len.toNat = 0 →
    exec (.ofb len) s = .next { s with err := .ok }

/-- R103 (marked as derived): from a state with a schedule and an IV in `IVBUF`, `OFBINIT` and then one `OFB` for
each block and for the tail of any data compute `OFBStream`, output and register both; the session is over exactly
if there was a tail. -/
def Obligations.OfbCommandsComputeTheStream : Prop :=
  ∀ (s : State) (z : Nat) (p : List Byte),
    s.kv = true → s.build.zmax ≤ 15 → s.ivbuf.length = 16 * s.build.zmax → 1 ≤ z → z ≤ s.build.zmax →
      ∃ t u out, exec (.ofbinit (BitVec.ofNat 8 (16 * z))) s = .next t ∧
        ofbCommands (p.length / 16) p t = some (out, u) ∧
        out = (ofbStream s.build.tables s.rk (s.ivbuf.take (16 * z)) p).1 ∧
        u.ofbreg.take (16 * z) = (ofbStream s.build.tables s.rk (s.ivbuf.take (16 * z)) p).2 ∧
        u.ofbst = (if p.length % 16 = 0 then .running else .tailDone) ∧ u.err = .ok

/-- R77, R78: `SUB` and `SUBI` map each byte lane of `DIN` through `PI` or `PINV` into `DOUT`, in any state. -/
def Obligations.SubAndSubiMapEachLane : Prop :=
  ∀ s : State,
    (∃ t, exec .sub s = .next t ∧ t = { s with dout := t.dout, err := .ok } ∧
      ∀ j, j < 16 → byteAt t.dout j = byteAt s.build.tables.pi (byteAt s.din j).toNat) ∧
    (∃ t, exec .subi s = .next t ∧ t = { s with dout := t.dout, err := .ok } ∧
      (s.build.WellFormed →
        ∀ j, j < 16 → byteAt s.build.tables.pi (byteAt t.dout j).toNat = byteAt s.din j))

/-- R79, R80, R81, R82: `LT`, `LTI`, `RST` and `RSTI` deliver `L`, `L_inv`, `R` and `R_inv` of `DIN`, in any state. -/
def Obligations.LinearCommandsDeliverTheirMaps : Prop :=
  ∀ s : State,
    exec .lt s = .next { s with dout := linear s.build.tables s.din, err := .ok } ∧
    exec .lti s = .next { s with dout := linearInv s.build.tables s.din, err := .ok } ∧
    exec .rst s = .next { s with dout := rStep s.build.tables s.din, err := .ok } ∧
    exec .rsti s = .next { s with dout := rStepInv s.build.tables s.din, err := .ok }

/-- R83: `GFMUL` multiplies every lane by `COEF[IDX]`; lanes of 0 give 0, lanes of 1 give `COEF[IDX]`, and a row
whose coefficient is 1 copies `DIN`. -/
def Obligations.GfmulMultipliesEachLane : Prop :=
  ∀ (s : State) (idx : Byte), idx.toNat ≤ 15 →
    ∃ t, exec (.gfmul idx) s = .next t ∧ t = { s with dout := t.dout, err := .ok } ∧
      (∀ j, j < 16 →
        byteAt t.dout j = gf s.build.tables (byteAt s.build.tables.coef idx.toNat) (byteAt s.din j) ∧
        (byteAt s.din j = 0 → byteAt t.dout j = 0) ∧
        (byteAt s.din j = 1 → byteAt t.dout j = byteAt s.build.tables.coef idx.toNat)) ∧
      (byteAt s.build.tables.coef idx.toNat = 1 → t.dout = s.din)

/-- R76, R84: `RCON` delivers `C[IDX] = L(e_IDX)` and reads no register: its `DOUT` does not depend on `DIN`. -/
def Obligations.RconDeliversTheRoundConstant : Prop :=
  ∀ (s : State) (idx : Byte), 1 ≤ idx.toNat → idx.toNat ≤ 32 →
    exec (.rcon idx) s =
      .next { s with dout := linear s.build.tables (ofBytes 16 fun j => if j < 15 then 0 else idx), err := .ok }

/-! ## The assembly language (spec/30_encoding.md rules R60 and R61) -/

/-- R60 (operand limits: assumption 14): every access of an assembled statement is inside the window; every access
of a statement other than `wr` and `rd` is accepted; every word that a statement other than `cmd` writes to `CMD` is
a legal command, so `cmd` is the only way to write an illegal word; and `cmd` writes any word, legal or not. -/
def Obligations.AssembledStatementsAreAcceptedAndLegal : Prop :=
  (∀ (zmax : Nat) (st : Stmt) (accesses : List Access), zmax ≤ 15 → assemble zmax st = some accesses →
    ∀ a ∈ accesses, a.offset < 0x400 ∧
      ((∀ off w, st ≠ .wr off w) → (∀ off, st ≠ .rd off) → accepted a = true) ∧
      ((∀ w, st ≠ .cmd w) → ∀ size w, a = .write size 0x000 w → ∃ i, decodeWord w = .ok i)) ∧
  ∀ (zmax : Nat) (w : Word), assemble zmax (.cmd w.toNat) = some [.write 4 0x000 w]

/-- R38, R61: the eight word writes of `ldkey` load the 32 bytes into `KEY` in order, and change no other register. -/
def Obligations.LdkeyLoadsTheKey : Prop :=
  ∀ (s : State) (zmax : Nat) (bytes : List Byte), bytes.length = 32 →
    ∃ accesses t, assemble zmax (.ldkey bytes) = some accesses ∧
      Sys2Proof.core.run 8 { s with pending := accesses.map HostEvent.access } = .next t ∧
      (∀ j, j < 32 → byteAt t.key j = listByte bytes j) ∧
      t = { s with key := t.key, pending := [], reply := .done }
end

