-- ==== Sys2Proof/Laws/Assembler.lean ====
section
/-!
SUPPORT. What the shared operations of the assembler put on the bus, said once (spec/30_encoding.md rule R60).
-/

namespace Sys2Proof.Machine

/-- `wr` is one write of a word that fits, at an offset of the window, and to `CMD` only of a legal word. -/
theorem busWriteStatement_eq_some (off w : Nat) (accesses : List Access) :
    busWriteStatement off w = some accesses ↔
      off < 0x400 ∧ w < 2 ^ 32 ∧ (off = 0x000 → legal (BitVec.ofNat 32 w) = true) ∧
        accesses = [.write 4 off (BitVec.ofNat 32 w)] := by
  unfold busWriteStatement
  split <;> grind

/-- A command is one `CMD` write of the encoding of a well-formed instruction. -/
theorem commandWrite_eq_some (i : Instr) (accesses : List Access) :
    commandWrite i = some accesses ↔ i.wellFormed = true ∧ accesses = [.write 4 0x000 (encode i)] := by
  unfold commandWrite
  split <;> grind

/-- A command with a field operand is that of an operand below 256. -/
theorem commandWith_eq_some (f : Byte → Instr) (n : Nat) (accesses : List Access) :
    commandWith f n = some accesses ↔ n < 256 ∧ commandWrite (f (BitVec.ofNat 8 n)) = some accesses := by
  simp [commandWith, fieldOperand, Option.bind_eq_some_iff]

/-- The accesses of a load are accepted word writes of the string's words, in order from the base. -/
theorem mem_loadWrites (base : Nat) (bytes : List Byte) (a : Access) :
    a ∈ loadWrites base bytes ↔
      ∃ i, i < bytes.length / 4 ∧ a = .write 4 (base + 4 * i) (listWordAt bytes (4 * i)) := by
  simp only [loadWrites, List.mem_map, List.mem_range, eq_comm]

end Sys2Proof.Machine
end

