-- ==== Sys2Proof/Laws/Bytes.lean ====
section
/-!
SUPPORT. The small lemmas of the byte strings, byte lanes and word stores of Sys2Proof/Machine/Operands.lean.
-/

namespace Sys2Proof.Machine

theorem byteAt_eq_getElem {n : Nat} (x : Bytes n) (j : Nat) (h : j < n) : byteAt x j = x[j] := by
  simp [byteAt, h]

theorem byteAt_of_le {n : Nat} (x : Bytes n) (j : Nat) (h : n ≤ j) : byteAt x j = 0 := by
  simp [byteAt, Nat.not_lt.mpr h]

@[simp] theorem byteAt_ofBytes {n : Nat} (f : Nat → Byte) (j : Nat) :
    byteAt (ofBytes n f) j = if j < n then f j else 0 := by
  by_cases h : j < n <;> simp [byteAt, ofBytes, h]

/-- Two strings of the same length are equal when their bytes are. -/
theorem bytes_ext {n : Nat} {x y : Bytes n} (h : ∀ j, j < n → byteAt x j = byteAt y j) : x = y := by
  ext1 j hj
  have := h j hj
  rwa [byteAt_eq_getElem _ _ hj, byteAt_eq_getElem _ _ hj] at this

@[simp] theorem byteAt_xorBytes {n : Nat} (x y : Bytes n) (j : Nat) :
    byteAt (xorBytes x y) j = byteAt x j ^^^ byteAt y j := by
  by_cases h : j < n
  · simp [xorBytes, h]
  · simp [byteAt_of_le _ _ (Nat.not_lt.mp h)]

@[simp] theorem byteAt_zeros (n j : Nat) : byteAt (zeros n) j = 0 := by
  by_cases h : j < n
  · simp [byteAt, zeros, h]
  · exact byteAt_of_le _ _ (Nat.not_lt.mp h)

theorem xorBytes_comm {n : Nat} (x y : Bytes n) : xorBytes x y = xorBytes y x :=
  bytes_ext fun j _ => by simp [BitVec.xor_comm]

theorem xorBytes_cancel_right {n : Nat} (x y : Bytes n) : xorBytes (xorBytes x y) y = x :=
  bytes_ext fun j _ => by simp

@[simp] theorem listByte_zeroList (n j : Nat) : listByte (zeroList n) j = 0 := by
  by_cases h : j < n <;> simp [listByte, zeroList, h]

theorem listByte_of_le (x : List Byte) (j : Nat) (h : x.length ≤ j) : listByte x j = 0 := by
  simp [listByte, h]

@[simp] theorem length_zeroList (n : Nat) : (zeroList n).length = n := by simp [zeroList]

@[simp] theorem length_sliceList (x : List Byte) (i n : Nat) :
    (sliceList x i n).length = min n (x.length - i) := by simp [sliceList]

@[simp] theorem length_listSetWord (x : List Byte) (i : Nat) (w : Word) :
    (listSetWord x i w).length = x.length := by simp [listSetWord]

@[simp] theorem byteAt_blockAt (x : List Byte) (i j : Nat) :
    byteAt (blockAt x i) j = if j < 16 then listByte x (i + j) else 0 := by simp [blockAt]

@[simp] theorem byteAt_keyHalf (k : Key) (i j : Nat) :
    byteAt (keyHalf k i) j = if j < 16 then byteAt k (i + j) else 0 := by simp [keyHalf]

@[simp] theorem byteAt_setWord {n : Nat} (x : Bytes n) (i : Nat) (w : Word) (j : Nat) :
    byteAt (setWord x i w) j =
      if j < n then (if i ≤ j ∧ j < i + 4 then lane w (j - i) else byteAt x j) else 0 := by
  simp [setWord]

theorem lane_getLsbD (w : Word) (k i : Nat) : (lane w k).getLsbD i = (decide (i < 8) && w.getLsbD (8 * k + i)) := by
  simp [lane]

theorem packWord_getLsbD (b0 b1 b2 b3 : Byte) (i : Nat) :
    (packWord b0 b1 b2 b3).getLsbD i =
      if i < 8 then b0.getLsbD i
      else if i < 16 then b1.getLsbD (i - 8)
      else if i < 24 then b2.getLsbD (i - 16)
      else b3.getLsbD (i - 24) := by
  simp only [packWord, BitVec.getLsbD_append, Nat.sub_sub]
  split <;> [rfl; skip]
  by_cases h1 : i < 16
  · simp [show i - 8 < 8 by omega, h1]
  · simp only [show ¬ i - 8 < 8 by omega, h1, ↓reduceIte]
    by_cases h2 : i < 24
    · simp [show i - 16 < 8 by omega, h2]
    · simp [show ¬ i - 16 < 8 by omega, h2]

/-- Lane k of a packed word is the k-th byte. -/
theorem lane_packWord (b0 b1 b2 b3 : Byte) (k : Nat) (h : k < 4) :
    lane (packWord b0 b1 b2 b3) k =
      if k = 0 then b0 else if k = 1 then b1 else if k = 2 then b2 else b3 := by
  apply BitVec.eq_of_getLsbD_eq
  intro i hi
  rw [lane_getLsbD, packWord_getLsbD]
  have : k = 0 ∨ k = 1 ∨ k = 2 ∨ k = 3 := by omega
  rcases this with rfl | rfl | rfl | rfl
  · simp [hi]
  · simp [hi, show 8 + i < 16 by omega]
  · simp [hi, show ¬ 16 + i < 8 by omega, show 16 + i < 24 by omega]
  · simp [hi, show ¬ 24 + i < 8 by omega, show ¬ 24 + i < 16 by omega]

/-- Two words are equal when their four lanes are. -/
theorem word_ext {v w : Word} (h : ∀ k, k < 4 → lane v k = lane w k) : v = w := by
  apply BitVec.eq_of_getLsbD_eq
  intro i hi
  have hk := congrArg (fun b => BitVec.getLsbD b (i % 8)) (h (i / 8) (by omega))
  simp only [lane_getLsbD, Nat.mod_lt i (show 0 < 8 by omega), decide_true, Bool.true_and, Nat.div_add_mod] at hk
  exact hk

end Sys2Proof.Machine
end

