-- ==== Sys2Proof/Laws/State.lean ====
section
/-!
SUPPORT. What each update of Sys2Proof/Machine/Ops.lean and Window.lean does to each field of the state: one lemma per
field per update, so that no proof unfolds a record update.
-/

namespace Sys2Proof.Machine

@[simp] theorem setErr_build (c : ErrorCode) (s : State) : (setErr c s).build = s.build := rfl
@[simp] theorem setErr_key (c : ErrorCode) (s : State) : (setErr c s).key = s.key := rfl
@[simp] theorem setErr_rk (c : ErrorCode) (s : State) : (setErr c s).rk = s.rk := rfl
@[simp] theorem setErr_kv (c : ErrorCode) (s : State) : (setErr c s).kv = s.kv := rfl
@[simp] theorem setErr_din (c : ErrorCode) (s : State) : (setErr c s).din = s.din := rfl
@[simp] theorem setErr_dout (c : ErrorCode) (s : State) : (setErr c s).dout = s.dout := rfl
@[simp] theorem setErr_ivbuf (c : ErrorCode) (s : State) : (setErr c s).ivbuf = s.ivbuf := rfl
@[simp] theorem setErr_ofbreg (c : ErrorCode) (s : State) : (setErr c s).ofbreg = s.ofbreg := rfl
@[simp] theorem setErr_ofbz (c : ErrorCode) (s : State) : (setErr c s).ofbz = s.ofbz := rfl
@[simp] theorem setErr_ofbst (c : ErrorCode) (s : State) : (setErr c s).ofbst = s.ofbst := rfl
@[simp] theorem setErr_err (c : ErrorCode) (s : State) : (setErr c s).err = c := rfl
@[simp] theorem setErr_pending (c : ErrorCode) (s : State) : (setErr c s).pending = s.pending := rfl
@[simp] theorem setErr_reply (c : ErrorCode) (s : State) : (setErr c s).reply = s.reply := rfl

@[simp] theorem setDout_build (b : Block) (s : State) : (setDout b s).build = s.build := rfl
@[simp] theorem setDout_key (b : Block) (s : State) : (setDout b s).key = s.key := rfl
@[simp] theorem setDout_rk (b : Block) (s : State) : (setDout b s).rk = s.rk := rfl
@[simp] theorem setDout_kv (b : Block) (s : State) : (setDout b s).kv = s.kv := rfl
@[simp] theorem setDout_din (b : Block) (s : State) : (setDout b s).din = s.din := rfl
@[simp] theorem setDout_dout (b : Block) (s : State) : (setDout b s).dout = b := rfl
@[simp] theorem setDout_ivbuf (b : Block) (s : State) : (setDout b s).ivbuf = s.ivbuf := rfl
@[simp] theorem setDout_ofbreg (b : Block) (s : State) : (setDout b s).ofbreg = s.ofbreg := rfl
@[simp] theorem setDout_ofbz (b : Block) (s : State) : (setDout b s).ofbz = s.ofbz := rfl
@[simp] theorem setDout_ofbst (b : Block) (s : State) : (setDout b s).ofbst = s.ofbst := rfl
@[simp] theorem setDout_err (b : Block) (s : State) : (setDout b s).err = s.err := rfl
@[simp] theorem setDout_pending (b : Block) (s : State) : (setDout b s).pending = s.pending := rfl
@[simp] theorem setDout_reply (b : Block) (s : State) : (setDout b s).reply = s.reply := rfl

@[simp] theorem wipeKey_build (s : State) : (wipeKey s).build = s.build := rfl
@[simp] theorem wipeKey_key (s : State) : (wipeKey s).key = zeros 32 := rfl
@[simp] theorem wipeKey_rk (s : State) : (wipeKey s).rk = s.rk := rfl
@[simp] theorem wipeKey_kv (s : State) : (wipeKey s).kv = s.kv := rfl
@[simp] theorem wipeKey_din (s : State) : (wipeKey s).din = s.din := rfl
@[simp] theorem wipeKey_dout (s : State) : (wipeKey s).dout = s.dout := rfl
@[simp] theorem wipeKey_ivbuf (s : State) : (wipeKey s).ivbuf = s.ivbuf := rfl
@[simp] theorem wipeKey_ofbreg (s : State) : (wipeKey s).ofbreg = s.ofbreg := rfl
@[simp] theorem wipeKey_ofbz (s : State) : (wipeKey s).ofbz = s.ofbz := rfl
@[simp] theorem wipeKey_ofbst (s : State) : (wipeKey s).ofbst = s.ofbst := rfl
@[simp] theorem wipeKey_err (s : State) : (wipeKey s).err = s.err := rfl
@[simp] theorem wipeKey_pending (s : State) : (wipeKey s).pending = s.pending := rfl
@[simp] theorem wipeKey_reply (s : State) : (wipeKey s).reply = s.reply := rfl

@[simp] theorem setSchedule_build (k : RoundKeys) (v : Bool) (s : State) : (setSchedule k v s).build = s.build := rfl
@[simp] theorem setSchedule_key (k : RoundKeys) (v : Bool) (s : State) : (setSchedule k v s).key = s.key := rfl
@[simp] theorem setSchedule_rk (k : RoundKeys) (v : Bool) (s : State) : (setSchedule k v s).rk = k := rfl
@[simp] theorem setSchedule_kv (k : RoundKeys) (v : Bool) (s : State) : (setSchedule k v s).kv = v := rfl
@[simp] theorem setSchedule_din (k : RoundKeys) (v : Bool) (s : State) : (setSchedule k v s).din = s.din := rfl
@[simp] theorem setSchedule_dout (k : RoundKeys) (v : Bool) (s : State) : (setSchedule k v s).dout = s.dout := rfl
@[simp] theorem setSchedule_ivbuf (k : RoundKeys) (v : Bool) (s : State) : (setSchedule k v s).ivbuf = s.ivbuf := rfl
@[simp] theorem setSchedule_ofbreg (k : RoundKeys) (v : Bool) (s : State) : (setSchedule k v s).ofbreg = s.ofbreg := rfl
@[simp] theorem setSchedule_ofbz (k : RoundKeys) (v : Bool) (s : State) : (setSchedule k v s).ofbz = s.ofbz := rfl
@[simp] theorem setSchedule_ofbst (k : RoundKeys) (v : Bool) (s : State) : (setSchedule k v s).ofbst = s.ofbst := rfl
@[simp] theorem setSchedule_err (k : RoundKeys) (v : Bool) (s : State) : (setSchedule k v s).err = s.err := rfl
@[simp] theorem setSchedule_pending (k : RoundKeys) (v : Bool) (s : State) : (setSchedule k v s).pending = s.pending := rfl
@[simp] theorem setSchedule_reply (k : RoundKeys) (v : Bool) (s : State) : (setSchedule k v s).reply = s.reply := rfl

@[simp] theorem endSession_build (s : State) : (endSession s).build = s.build := rfl
@[simp] theorem endSession_key (s : State) : (endSession s).key = s.key := rfl
@[simp] theorem endSession_rk (s : State) : (endSession s).rk = s.rk := rfl
@[simp] theorem endSession_kv (s : State) : (endSession s).kv = s.kv := rfl
@[simp] theorem endSession_din (s : State) : (endSession s).din = s.din := rfl
@[simp] theorem endSession_dout (s : State) : (endSession s).dout = s.dout := rfl
@[simp] theorem endSession_ivbuf (s : State) : (endSession s).ivbuf = s.ivbuf := rfl
@[simp] theorem endSession_ofbreg (s : State) : (endSession s).ofbreg = zeroList (16 * s.build.zmax) := rfl
@[simp] theorem endSession_ofbz (s : State) : (endSession s).ofbz = 0 := rfl
@[simp] theorem endSession_ofbst (s : State) : (endSession s).ofbst = .uninit := rfl
@[simp] theorem endSession_err (s : State) : (endSession s).err = s.err := rfl
@[simp] theorem endSession_pending (s : State) : (endSession s).pending = s.pending := rfl
@[simp] theorem endSession_reply (s : State) : (endSession s).reply = s.reply := rfl

@[simp] theorem startSession_build (r : List Byte) (z : Nat) (s : State) : (startSession r z s).build = s.build := rfl
@[simp] theorem startSession_key (r : List Byte) (z : Nat) (s : State) : (startSession r z s).key = s.key := rfl
@[simp] theorem startSession_rk (r : List Byte) (z : Nat) (s : State) : (startSession r z s).rk = s.rk := rfl
@[simp] theorem startSession_kv (r : List Byte) (z : Nat) (s : State) : (startSession r z s).kv = s.kv := rfl
@[simp] theorem startSession_din (r : List Byte) (z : Nat) (s : State) : (startSession r z s).din = s.din := rfl
@[simp] theorem startSession_dout (r : List Byte) (z : Nat) (s : State) : (startSession r z s).dout = s.dout := rfl
@[simp] theorem startSession_ivbuf (r : List Byte) (z : Nat) (s : State) : (startSession r z s).ivbuf = s.ivbuf := rfl
@[simp] theorem startSession_ofbreg (r : List Byte) (z : Nat) (s : State) : (startSession r z s).ofbreg = r := rfl
@[simp] theorem startSession_ofbz (r : List Byte) (z : Nat) (s : State) : (startSession r z s).ofbz = z := rfl
@[simp] theorem startSession_ofbst (r : List Byte) (z : Nat) (s : State) : (startSession r z s).ofbst = .running := rfl
@[simp] theorem startSession_err (r : List Byte) (z : Nat) (s : State) : (startSession r z s).err = s.err := rfl
@[simp] theorem startSession_pending (r : List Byte) (z : Nat) (s : State) : (startSession r z s).pending = s.pending := rfl
@[simp] theorem startSession_reply (r : List Byte) (z : Nat) (s : State) : (startSession r z s).reply = s.reply := rfl

@[simp] theorem setOfbReg_build (r : List Byte) (s : State) : (setOfbReg r s).build = s.build := rfl
@[simp] theorem setOfbReg_key (r : List Byte) (s : State) : (setOfbReg r s).key = s.key := rfl
@[simp] theorem setOfbReg_rk (r : List Byte) (s : State) : (setOfbReg r s).rk = s.rk := rfl
@[simp] theorem setOfbReg_kv (r : List Byte) (s : State) : (setOfbReg r s).kv = s.kv := rfl
@[simp] theorem setOfbReg_din (r : List Byte) (s : State) : (setOfbReg r s).din = s.din := rfl
@[simp] theorem setOfbReg_dout (r : List Byte) (s : State) : (setOfbReg r s).dout = s.dout := rfl
@[simp] theorem setOfbReg_ivbuf (r : List Byte) (s : State) : (setOfbReg r s).ivbuf = s.ivbuf := rfl
@[simp] theorem setOfbReg_ofbreg (r : List Byte) (s : State) : (setOfbReg r s).ofbreg = r := rfl
@[simp] theorem setOfbReg_ofbz (r : List Byte) (s : State) : (setOfbReg r s).ofbz = s.ofbz := rfl
@[simp] theorem setOfbReg_ofbst (r : List Byte) (s : State) : (setOfbReg r s).ofbst = s.ofbst := rfl
@[simp] theorem setOfbReg_err (r : List Byte) (s : State) : (setOfbReg r s).err = s.err := rfl
@[simp] theorem setOfbReg_pending (r : List Byte) (s : State) : (setOfbReg r s).pending = s.pending := rfl
@[simp] theorem setOfbReg_reply (r : List Byte) (s : State) : (setOfbReg r s).reply = s.reply := rfl

@[simp] theorem markTailDone_build (s : State) : (markTailDone s).build = s.build := rfl
@[simp] theorem markTailDone_key (s : State) : (markTailDone s).key = s.key := rfl
@[simp] theorem markTailDone_rk (s : State) : (markTailDone s).rk = s.rk := rfl
@[simp] theorem markTailDone_kv (s : State) : (markTailDone s).kv = s.kv := rfl
@[simp] theorem markTailDone_din (s : State) : (markTailDone s).din = s.din := rfl
@[simp] theorem markTailDone_dout (s : State) : (markTailDone s).dout = s.dout := rfl
@[simp] theorem markTailDone_ivbuf (s : State) : (markTailDone s).ivbuf = s.ivbuf := rfl
@[simp] theorem markTailDone_ofbreg (s : State) : (markTailDone s).ofbreg = s.ofbreg := rfl
@[simp] theorem markTailDone_ofbz (s : State) : (markTailDone s).ofbz = s.ofbz := rfl
@[simp] theorem markTailDone_ofbst (s : State) : (markTailDone s).ofbst = .tailDone := rfl
@[simp] theorem markTailDone_err (s : State) : (markTailDone s).err = s.err := rfl
@[simp] theorem markTailDone_pending (s : State) : (markTailDone s).pending = s.pending := rfl
@[simp] theorem markTailDone_reply (s : State) : (markTailDone s).reply = s.reply := rfl

@[simp] theorem setReply_build (r : Reply) (s : State) : (setReply r s).build = s.build := rfl
@[simp] theorem setReply_key (r : Reply) (s : State) : (setReply r s).key = s.key := rfl
@[simp] theorem setReply_rk (r : Reply) (s : State) : (setReply r s).rk = s.rk := rfl
@[simp] theorem setReply_kv (r : Reply) (s : State) : (setReply r s).kv = s.kv := rfl
@[simp] theorem setReply_din (r : Reply) (s : State) : (setReply r s).din = s.din := rfl
@[simp] theorem setReply_dout (r : Reply) (s : State) : (setReply r s).dout = s.dout := rfl
@[simp] theorem setReply_ivbuf (r : Reply) (s : State) : (setReply r s).ivbuf = s.ivbuf := rfl
@[simp] theorem setReply_ofbreg (r : Reply) (s : State) : (setReply r s).ofbreg = s.ofbreg := rfl
@[simp] theorem setReply_ofbz (r : Reply) (s : State) : (setReply r s).ofbz = s.ofbz := rfl
@[simp] theorem setReply_ofbst (r : Reply) (s : State) : (setReply r s).ofbst = s.ofbst := rfl
@[simp] theorem setReply_err (r : Reply) (s : State) : (setReply r s).err = s.err := rfl
@[simp] theorem setReply_pending (r : Reply) (s : State) : (setReply r s).pending = s.pending := rfl
@[simp] theorem setReply_reply (r : Reply) (s : State) : (setReply r s).reply = r := rfl

@[simp] theorem setPending_build (es : List HostEvent) (s : State) : (setPending es s).build = s.build := rfl
@[simp] theorem setPending_key (es : List HostEvent) (s : State) : (setPending es s).key = s.key := rfl
@[simp] theorem setPending_rk (es : List HostEvent) (s : State) : (setPending es s).rk = s.rk := rfl
@[simp] theorem setPending_kv (es : List HostEvent) (s : State) : (setPending es s).kv = s.kv := rfl
@[simp] theorem setPending_din (es : List HostEvent) (s : State) : (setPending es s).din = s.din := rfl
@[simp] theorem setPending_dout (es : List HostEvent) (s : State) : (setPending es s).dout = s.dout := rfl
@[simp] theorem setPending_ivbuf (es : List HostEvent) (s : State) : (setPending es s).ivbuf = s.ivbuf := rfl
@[simp] theorem setPending_ofbreg (es : List HostEvent) (s : State) : (setPending es s).ofbreg = s.ofbreg := rfl
@[simp] theorem setPending_ofbz (es : List HostEvent) (s : State) : (setPending es s).ofbz = s.ofbz := rfl
@[simp] theorem setPending_ofbst (es : List HostEvent) (s : State) : (setPending es s).ofbst = s.ofbst := rfl
@[simp] theorem setPending_err (es : List HostEvent) (s : State) : (setPending es s).err = s.err := rfl
@[simp] theorem setPending_pending (es : List HostEvent) (s : State) : (setPending es s).pending = es := rfl
@[simp] theorem setPending_reply (es : List HostEvent) (s : State) : (setPending es s).reply = s.reply := rfl

@[simp] theorem resetRegisters_build (r : Reply) (s : State) : (resetRegisters r s).build = s.build := rfl
@[simp] theorem resetRegisters_key (r : Reply) (s : State) : (resetRegisters r s).key = zeros 32 := rfl
@[simp] theorem resetRegisters_rk (r : Reply) (s : State) : (resetRegisters r s).rk = Vector.replicate 10 (zeros 16) := rfl
@[simp] theorem resetRegisters_kv (r : Reply) (s : State) : (resetRegisters r s).kv = false := rfl
@[simp] theorem resetRegisters_din (r : Reply) (s : State) : (resetRegisters r s).din = zeros 16 := rfl
@[simp] theorem resetRegisters_dout (r : Reply) (s : State) : (resetRegisters r s).dout = zeros 16 := rfl
@[simp] theorem resetRegisters_ivbuf (r : Reply) (s : State) : (resetRegisters r s).ivbuf = zeroList (16 * s.build.zmax) := rfl
@[simp] theorem resetRegisters_ofbreg (r : Reply) (s : State) : (resetRegisters r s).ofbreg = zeroList (16 * s.build.zmax) := rfl
@[simp] theorem resetRegisters_ofbz (r : Reply) (s : State) : (resetRegisters r s).ofbz = 0 := rfl
@[simp] theorem resetRegisters_ofbst (r : Reply) (s : State) : (resetRegisters r s).ofbst = .uninit := rfl
@[simp] theorem resetRegisters_err (r : Reply) (s : State) : (resetRegisters r s).err = .ok := rfl
@[simp] theorem resetRegisters_pending (r : Reply) (s : State) : (resetRegisters r s).pending = s.pending := rfl
@[simp] theorem resetRegisters_reply (r : Reply) (s : State) : (resetRegisters r s).reply = r := rfl

@[simp] theorem storeKey_build (i : Nat) (w : Word) (s : State) : (storeKey i w s).build = s.build := rfl
@[simp] theorem storeKey_key (i : Nat) (w : Word) (s : State) : (storeKey i w s).key = setWord s.key i w := rfl
@[simp] theorem storeKey_rk (i : Nat) (w : Word) (s : State) : (storeKey i w s).rk = s.rk := rfl
@[simp] theorem storeKey_kv (i : Nat) (w : Word) (s : State) : (storeKey i w s).kv = s.kv := rfl
@[simp] theorem storeKey_din (i : Nat) (w : Word) (s : State) : (storeKey i w s).din = s.din := rfl
@[simp] theorem storeKey_dout (i : Nat) (w : Word) (s : State) : (storeKey i w s).dout = s.dout := rfl
@[simp] theorem storeKey_ivbuf (i : Nat) (w : Word) (s : State) : (storeKey i w s).ivbuf = s.ivbuf := rfl
@[simp] theorem storeKey_ofbreg (i : Nat) (w : Word) (s : State) : (storeKey i w s).ofbreg = s.ofbreg := rfl
@[simp] theorem storeKey_ofbz (i : Nat) (w : Word) (s : State) : (storeKey i w s).ofbz = s.ofbz := rfl
@[simp] theorem storeKey_ofbst (i : Nat) (w : Word) (s : State) : (storeKey i w s).ofbst = s.ofbst := rfl
@[simp] theorem storeKey_err (i : Nat) (w : Word) (s : State) : (storeKey i w s).err = s.err := rfl
@[simp] theorem storeKey_pending (i : Nat) (w : Word) (s : State) : (storeKey i w s).pending = s.pending := rfl
@[simp] theorem storeKey_reply (i : Nat) (w : Word) (s : State) : (storeKey i w s).reply = s.reply := rfl

@[simp] theorem storeDin_build (i : Nat) (w : Word) (s : State) : (storeDin i w s).build = s.build := rfl
@[simp] theorem storeDin_key (i : Nat) (w : Word) (s : State) : (storeDin i w s).key = s.key := rfl
@[simp] theorem storeDin_rk (i : Nat) (w : Word) (s : State) : (storeDin i w s).rk = s.rk := rfl
@[simp] theorem storeDin_kv (i : Nat) (w : Word) (s : State) : (storeDin i w s).kv = s.kv := rfl
@[simp] theorem storeDin_din (i : Nat) (w : Word) (s : State) : (storeDin i w s).din = setWord s.din i w := rfl
@[simp] theorem storeDin_dout (i : Nat) (w : Word) (s : State) : (storeDin i w s).dout = s.dout := rfl
@[simp] theorem storeDin_ivbuf (i : Nat) (w : Word) (s : State) : (storeDin i w s).ivbuf = s.ivbuf := rfl
@[simp] theorem storeDin_ofbreg (i : Nat) (w : Word) (s : State) : (storeDin i w s).ofbreg = s.ofbreg := rfl
@[simp] theorem storeDin_ofbz (i : Nat) (w : Word) (s : State) : (storeDin i w s).ofbz = s.ofbz := rfl
@[simp] theorem storeDin_ofbst (i : Nat) (w : Word) (s : State) : (storeDin i w s).ofbst = s.ofbst := rfl
@[simp] theorem storeDin_err (i : Nat) (w : Word) (s : State) : (storeDin i w s).err = s.err := rfl
@[simp] theorem storeDin_pending (i : Nat) (w : Word) (s : State) : (storeDin i w s).pending = s.pending := rfl
@[simp] theorem storeDin_reply (i : Nat) (w : Word) (s : State) : (storeDin i w s).reply = s.reply := rfl

@[simp] theorem storeIv_build (i : Nat) (w : Word) (s : State) : (storeIv i w s).build = s.build := rfl
@[simp] theorem storeIv_key (i : Nat) (w : Word) (s : State) : (storeIv i w s).key = s.key := rfl
@[simp] theorem storeIv_rk (i : Nat) (w : Word) (s : State) : (storeIv i w s).rk = s.rk := rfl
@[simp] theorem storeIv_kv (i : Nat) (w : Word) (s : State) : (storeIv i w s).kv = s.kv := rfl
@[simp] theorem storeIv_din (i : Nat) (w : Word) (s : State) : (storeIv i w s).din = s.din := rfl
@[simp] theorem storeIv_dout (i : Nat) (w : Word) (s : State) : (storeIv i w s).dout = s.dout := rfl
@[simp] theorem storeIv_ivbuf (i : Nat) (w : Word) (s : State) : (storeIv i w s).ivbuf = if i < 16 * s.build.zmax then listSetWord s.ivbuf i w else s.ivbuf := rfl
@[simp] theorem storeIv_ofbreg (i : Nat) (w : Word) (s : State) : (storeIv i w s).ofbreg = s.ofbreg := rfl
@[simp] theorem storeIv_ofbz (i : Nat) (w : Word) (s : State) : (storeIv i w s).ofbz = s.ofbz := rfl
@[simp] theorem storeIv_ofbst (i : Nat) (w : Word) (s : State) : (storeIv i w s).ofbst = s.ofbst := rfl
@[simp] theorem storeIv_err (i : Nat) (w : Word) (s : State) : (storeIv i w s).err = s.err := rfl
@[simp] theorem storeIv_pending (i : Nat) (w : Word) (s : State) : (storeIv i w s).pending = s.pending := rfl
@[simp] theorem storeIv_reply (i : Nat) (w : Word) (s : State) : (storeIv i w s).reply = s.reply := rfl

end Sys2Proof.Machine
end

