-- ==== Sys2Proof/Laws/Ops.lean ====
section
/-!
SUPPORT. What each shared operation, each command and one step can do, said once: later proofs take these cases and
never unfold the definitions again.
-/

namespace Sys2Proof.Machine

@[simp] theorem raiseError_eq_next (c : ErrorCode) (s t : State) : raiseError c s = .next t ↔ setErr c s = t := by
  simp [raiseError]

@[simp] theorem succeed_eq_next (s t : State) : succeed s = .next t ↔ setErr .ok s = t := by simp [succeed]

@[simp] theorem deliver_eq_next (b : Block) (s t : State) :
    deliver b s = .next t ↔ setErr .ok (setDout b s) = t := by simp [deliver]

@[simp] theorem illegalWord_eq_next (s t : State) : illegalWord s = .next t ↔ setErr .illegalCommand s = t := by
  simp [illegalWord]

/-- Everything a command can do when it answers a next state: it reports an error, delivers a block, or is one of the
commands that touch key or OFB state. -/
inductive CommandEffect (s : State) : Instr → State → Prop where
  /-- `NOP`, and `OFB` with LEN = 0. -/
  | nothing {i : Instr} (h : i = .nop ∨ ∃ len, i = .ofb len ∧ len.toNat = 0 ∧ s.kv = true ∧ s.ofbst = .running) :
      CommandEffect s i (setErr .ok s)
  /-- An error without a wipe. -/
  | error {i : Instr} {c : ErrorCode} (h : c ≠ .ok) (hi : ∀ len, i ≠ .keyexp len) : CommandEffect s i (setErr c s)
  /-- The size error of `KEYEXP`. -/
  | keySizeError {len : Byte} (h : len.toNat ≠ 32) :
      CommandEffect s (.keyexp len) (setErr .invalidKeySize (wipeKey s))
  /-- A successful `KEYEXP`. -/
  | newSchedule {len : Byte} (h : len.toNat = 32) :
      CommandEffect s (.keyexp len)
        (setErr .ok (endSession (wipeKey (setSchedule (keySchedule s.build.tables s.key) true s))))
  /-- `KEYCLR`. -/
  | cleared :
      CommandEffect s .keyclr
        (setErr .ok (endSession (setSchedule (Vector.replicate 10 (zeros 16)) false (wipeKey s))))
  /-- A command that produces a block and touches no OFB state. -/
  | block {i : Instr} (b : Block)
      (h : (∃ len, i = .enc len) ∨ (∃ len, i = .dec len) ∨ i = .sub ∨ i = .subi ∨ i = .lt ∨ i = .lti ∨ i = .rst ∨
        i = .rsti ∨ (∃ j, i = .gfmul j) ∨ ∃ j, i = .rcon j) :
      CommandEffect s i (setErr .ok (setDout b s))
  /-- A successful `OFBINIT`. -/
  | sessionStarted {len : Byte} (hk : s.kv = true) (h : ivLengthOk len.toNat s.build.zmax = true) :
      CommandEffect s (.ofbinit len)
        (setErr .ok (startSession
          (sliceList s.ivbuf 0 len.toNat ++ zeroList (16 * s.build.zmax - len.toNat)) (len.toNat / 16) s))
  /-- `OFB` on a full block. -/
  | fullBlock {len : Byte} (hk : s.kv = true) (hr : s.ofbst = .running) (h : len.toNat = 16) :
      CommandEffect s (.ofb len)
        (setErr .ok (setDout (xorBytes (gamma s) s.din) (setOfbReg (shiftedRegister s) s)))
  /-- `OFB` on a final partial block. -/
  | tail {len : Byte} (hk : s.kv = true) (hr : s.ofbst = .running) (h1 : 1 ≤ len.toNat) (h2 : len.toNat ≤ 15) :
      CommandEffect s (.ofb len)
        (setErr .ok (setDout (tailOutput len.toNat (gamma s) s.din) (markTailDone s)))

theorem execKeyexp_effect {len : Byte} {s t : State} (h : execKeyexp len s = .next t) :
    CommandEffect s (.keyexp len) t := by
  unfold execKeyexp at h
  split at h
  · next hl =>
    rw [raiseError_eq_next] at h
    exact h ▸ .keySizeError hl
  · next hl =>
    rw [succeed_eq_next] at h
    exact h ▸ .newSchedule (Decidable.not_not.mp hl)

theorem blockCommand_effect {len : Byte} {b : Block} {i : Instr} {s t : State}
    (hi : i = .enc len ∨ i = .dec len) (h : blockCommand len b s = .next t) : CommandEffect s i t := by
  have hne : ∀ l, i ≠ .keyexp l := by rcases hi with rfl | rfl <;> simp
  unfold blockCommand at h
  split at h
  · rw [raiseError_eq_next] at h
    exact h ▸ .error (by decide) hne
  · split at h
    · rw [raiseError_eq_next] at h
      exact h ▸ .error (by decide) hne
    · rw [deliver_eq_next] at h
      exact h ▸ .block b (by rcases hi with rfl | rfl <;> simp)

theorem execOfbinit_effect {len : Byte} {s t : State} (h : execOfbinit len s = .next t) :
    CommandEffect s (.ofbinit len) t := by
  unfold execOfbinit at h
  split at h
  · rw [raiseError_eq_next] at h
    exact h ▸ .error (by decide) (by simp)
  · next hk =>
    split at h
    · rw [raiseError_eq_next] at h
      exact h ▸ .error (by decide) (by simp)
    · next hl =>
      rw [succeed_eq_next] at h
      exact h ▸ .sessionStarted (by simpa using hk) (by simpa using hl)

theorem execOfb_effect {len : Byte} {s t : State} (h : execOfb len s = .next t) :
    CommandEffect s (.ofb len) t := by
  unfold execOfb at h
  split at h
  · rw [raiseError_eq_next] at h
    exact h ▸ .error (by decide) (by simp)
  next hk =>
  have hk : s.kv = true := by simpa using hk
  split at h
  · rw [raiseError_eq_next] at h
    exact h ▸ .error (by decide) (by simp)
  next hr =>
  have hr : s.ofbst = .running := Decidable.not_not.mp hr
  split at h
  · rw [raiseError_eq_next] at h
    exact h ▸ .error (by decide) (by simp)
  next hl =>
  split at h
  · next h16 =>
    rw [ofbFullBlock, deliver_eq_next] at h
    exact h ▸ .fullBlock hk hr h16
  next h16 =>
  split at h
  · next h0 =>
    rw [succeed_eq_next] at h
    exact h ▸ .nothing (Or.inr ⟨len, rfl, h0, hk, hr⟩)
  · next h0 =>
    rw [ofbTail, deliver_eq_next] at h
    exact h ▸ .tail hk hr (by omega) (by omega)

/-- What a command that answers a next state has done. -/
theorem exec_effect {i : Instr} {s t : State} (h : exec i s = .next t) : CommandEffect s i t := by
  cases i with
  | nop => exact (succeed_eq_next s t).mp h ▸ .nothing (Or.inl rfl)
  | keyexp len => exact execKeyexp_effect h
  | keyclr => exact (succeed_eq_next _ t).mp h ▸ .cleared
  | enc len => exact blockCommand_effect (Or.inl rfl) h
  | dec len => exact blockCommand_effect (Or.inr rfl) h
  | ofbinit len => exact execOfbinit_effect h
  | ofb len => exact execOfb_effect h
  | sub => exact (deliver_eq_next _ s t).mp h ▸ .block _ (by simp)
  | subi => exact (deliver_eq_next _ s t).mp h ▸ .block _ (by simp)
  | lt => exact (deliver_eq_next _ s t).mp h ▸ .block _ (by simp)
  | lti => exact (deliver_eq_next _ s t).mp h ▸ .block _ (by simp)
  | rst => exact (deliver_eq_next _ s t).mp h ▸ .block _ (by simp)
  | rsti => exact (deliver_eq_next _ s t).mp h ▸ .block _ (by simp)
  | gfmul idx =>
    simp only [exec, execGfmul] at h
    split at h
    · exact (deliver_eq_next _ s t).mp h ▸ .block _ (by simp)
    · exact (raiseError_eq_next _ s t).mp h ▸ .error (by decide) (by simp)
  | rcon idx =>
    simp only [exec, execRcon] at h
    split at h
    · exact (deliver_eq_next _ s t).mp h ▸ .block _ (by simp)
    · exact (raiseError_eq_next _ s t).mp h ▸ .error (by decide) (by simp)

/-- Everything one host event can do when it answers a next state. -/
inductive EventEffect (s : State) : HostEvent → State → Prop where
  /-- The reset input. -/
  | reset : EventEffect s .reset (resetRegisters .none s)
  /-- The reset input during a command. -/
  | resetDuringCommand (w : Word) : EventEffect s (.resetDuringCommand w) (resetRegisters .cutByReset s)
  /-- An access the core does not accept. -/
  | busFault {a : Access} (hw : a.offset < windowSize) (h : accepted a = false) :
      EventEffect s (.access a) (setReply (.busFault a.offset) s)
  /-- A read. -/
  | read {size off : Nat} (hw : off < windowSize) (h : accepted (.read size off) = true) :
      EventEffect s (.access (.read size off)) (setReply (.data (busRead off s)) s)
  /-- A write to a register other than `CMD`. -/
  | store {size off : Nat} {w : Word} (hw : off < windowSize) (h : accepted (.write size off w) = true)
      (h0 : off ≠ 0) :
      EventEffect s (.access (.write size off w)) (storeWindow off w (setReply .done s))
  /-- A write of an illegal word to `CMD`. -/
  | illegal {w : Word} {e : DecodeError} (h : decodeWord w = .error e) :
      EventEffect s (.access (.write 4 0 w)) (setErr .illegalCommand (setReply .done s))
  /-- A command. -/
  | command {w : Word} {i : Instr} {t : State} (h : decodeWord w = .ok i)
      (ht : CommandEffect (setReply .done s) i t) : EventEffect s (.access (.write 4 0 w)) t

/-- What a host event that answers a next state has done. -/
theorem perform_effect {e : HostEvent} {s t : State} (h : perform e s = .next t) : EventEffect s e t := by
  cases e with
  | reset => simp only [perform, Host.Outcome.next.injEq] at h; exact h ▸ .reset
  | resetDuringCommand w => simp only [perform, Host.Outcome.next.injEq] at h; exact h ▸ .resetDuringCommand w
  | access a =>
    simp only [perform, performAccess] at h
    split at h
    · simp at h
    next hw =>
    split at h
    · next ha =>
      simp only [Host.Outcome.next.injEq] at h
      exact h ▸ .busFault (Nat.not_le.mp hw) ha
    next ha =>
    have ha : accepted a = true := by simpa using ha
    cases a with
    | read size off =>
      simp only [Host.Outcome.next.injEq] at h
      exact h ▸ .read (Nat.not_le.mp hw) ha
    | write size off w =>
      simp only [busWrite] at h
      split at h
      · next h0 =>
        subst h0
        have hs : size = 4 := by simpa [accepted, Access.width, Access.offset] using ha
        subst hs
        unfold execute at h
        split at h
        · next i hd => exact .command hd (exec_effect h)
        · next e hd =>
          rw [illegalWord_eq_next] at h
          exact h ▸ .illegal hd
      · next h0 =>
        simp only [Host.Outcome.next.injEq] at h
        exact h ▸ .store (Nat.not_le.mp hw) ha h0

/-- What a step that answers a next state has done: nothing was pending, or the first pending event took effect. -/
theorem step_effect {s t : State} (h : step s = .next t) :
    (s.pending = [] ∧ t = s) ∨
      ∃ e rest, s.pending = e :: rest ∧ EventEffect (setPending rest s) e t := by
  unfold step at h
  split at h
  · next hp =>
    simp only [Host.Outcome.next.injEq] at h
    exact Or.inl ⟨hp, h.symm⟩
  · next e rest hp => exact Or.inr ⟨e, rest, hp, perform_effect h⟩

/-- What a plain register write can change: `KEY`, `DIN` or `IVBUF`, or nothing. -/
theorem storeWindow_cases (off : Nat) (w : Word) (s : State) :
    (∃ i, storeWindow off w s = storeKey i w s) ∨ (∃ i, storeWindow off w s = storeDin i w s) ∨
      (∃ i, storeWindow off w s = storeIv i w s) ∨ storeWindow off w s = s := by
  unfold storeWindow
  split
  · exact Or.inl ⟨_, rfl⟩
  split
  · exact Or.inr (Or.inl ⟨_, rfl⟩)
  split
  · exact Or.inr (Or.inr (Or.inl ⟨_, rfl⟩))
  · exact Or.inr (Or.inr (Or.inr rfl))

end Sys2Proof.Machine
end

