-- ==== Sys2Proof/Laws/PerInstr.lean ====
section
/-!
SUPPORT. Per-instruction laws about the command words: the word of an instruction is legal exactly when the instruction
is well formed.
-/

namespace Sys2Proof

/-- Bit i of a word written from its four byte fields. -/
theorem append_getLsbD (rsv len idx op : Byte) (i : Nat) :
    BitVec.getLsbD (w := 32) (rsv ++ len ++ idx ++ op) i =
      if i < 8 then op.getLsbD i
      else if i < 16 then idx.getLsbD (i - 8)
      else if i < 24 then len.getLsbD (i - 16)
      else rsv.getLsbD (i - 24) := by
  simp only [BitVec.getLsbD_append, Nat.sub_sub]
  split <;> [rfl; skip]
  by_cases h1 : i < 16
  · simp [show i - 8 < 8 by omega, h1]
  · simp only [show ¬ i - 8 < 8 by omega, h1, ↓reduceIte]
    by_cases h2 : i < 24
    · simp [show i - 16 < 8 by omega, h2]
    · simp [show ¬ i - 16 < 8 by omega, h2]

/-- The fields of a word written from its fields. -/
theorem field_append (rsv len idx op : Byte) :
    fieldOp (rsv ++ len ++ idx ++ op) = op ∧ fieldIdx (rsv ++ len ++ idx ++ op) = idx ∧
      fieldLen (rsv ++ len ++ idx ++ op) = len ∧ fieldRsv (rsv ++ len ++ idx ++ op) = rsv := by
  refine ⟨?_, ?_, ?_, ?_⟩ <;> apply BitVec.eq_of_getLsbD_eq <;> intro i hi <;>
    simp only [fieldOp, fieldIdx, fieldLen, fieldRsv, BitVec.getLsbD_extractLsb', append_getLsbD, hi, decide_true,
      Bool.true_and]
  · simp [hi]
  · simp [hi, show 8 + i < 16 by omega]
  · simp [hi, show ¬ 16 + i < 8 by omega, show 16 + i < 24 by omega]
  · simp [hi, show ¬ 24 + i < 8 by omega, show ¬ 24 + i < 16 by omega]

@[simp] theorem fieldOp_commandWord (op idx len : Byte) : fieldOp (commandWord op idx len) = op :=
  (field_append 0 len idx op).1

@[simp] theorem fieldIdx_commandWord (op idx len : Byte) : fieldIdx (commandWord op idx len) = idx :=
  (field_append 0 len idx op).2.1

@[simp] theorem fieldLen_commandWord (op idx len : Byte) : fieldLen (commandWord op idx len) = len :=
  (field_append 0 len idx op).2.2.1

@[simp] theorem fieldRsv_commandWord (op idx len : Byte) : fieldRsv (commandWord op idx len) = 0 :=
  (field_append 0 len idx op).2.2.2

end Sys2Proof

/-- The command word of an instruction is legal (R57) exactly when the instruction is well formed. -/
def Sys2Proof.Laws.EncodeLegal.Statement (i : Sys2Proof.Instr) : Prop :=
  Sys2Proof.legal (Sys2Proof.encode i) = i.wellFormed

theorem Sys2Proof.Laws.EncodeLegal.nop : Sys2Proof.Laws.EncodeLegal.Statement .nop := by
  simp [Statement, Sys2Proof.encode, Sys2Proof.legal, Sys2Proof.Instr.wellFormed, Sys2Proof.assignedOpcodes,
    Sys2Proof.indexOpcodes, Sys2Proof.lengthOpcodes]

theorem Sys2Proof.Laws.EncodeLegal.keyexp (len : Sys2Proof.Byte) : Sys2Proof.Laws.EncodeLegal.Statement (.keyexp len) := by
  simp [Statement, Sys2Proof.encode, Sys2Proof.legal, Sys2Proof.Instr.wellFormed, Sys2Proof.assignedOpcodes,
    Sys2Proof.indexOpcodes, Sys2Proof.lengthOpcodes]

theorem Sys2Proof.Laws.EncodeLegal.keyclr : Sys2Proof.Laws.EncodeLegal.Statement .keyclr := by
  simp [Statement, Sys2Proof.encode, Sys2Proof.legal, Sys2Proof.Instr.wellFormed, Sys2Proof.assignedOpcodes,
    Sys2Proof.indexOpcodes, Sys2Proof.lengthOpcodes]

theorem Sys2Proof.Laws.EncodeLegal.enc (len : Sys2Proof.Byte) : Sys2Proof.Laws.EncodeLegal.Statement (.enc len) := by
  simp [Statement, Sys2Proof.encode, Sys2Proof.legal, Sys2Proof.Instr.wellFormed, Sys2Proof.assignedOpcodes,
    Sys2Proof.indexOpcodes, Sys2Proof.lengthOpcodes]

theorem Sys2Proof.Laws.EncodeLegal.dec (len : Sys2Proof.Byte) : Sys2Proof.Laws.EncodeLegal.Statement (.dec len) := by
  simp [Statement, Sys2Proof.encode, Sys2Proof.legal, Sys2Proof.Instr.wellFormed, Sys2Proof.assignedOpcodes,
    Sys2Proof.indexOpcodes, Sys2Proof.lengthOpcodes]

theorem Sys2Proof.Laws.EncodeLegal.ofbinit (len : Sys2Proof.Byte) : Sys2Proof.Laws.EncodeLegal.Statement (.ofbinit len) := by
  simp [Statement, Sys2Proof.encode, Sys2Proof.legal, Sys2Proof.Instr.wellFormed, Sys2Proof.assignedOpcodes,
    Sys2Proof.indexOpcodes, Sys2Proof.lengthOpcodes]

theorem Sys2Proof.Laws.EncodeLegal.ofb (len : Sys2Proof.Byte) : Sys2Proof.Laws.EncodeLegal.Statement (.ofb len) := by
  simp [Statement, Sys2Proof.encode, Sys2Proof.legal, Sys2Proof.Instr.wellFormed, Sys2Proof.assignedOpcodes,
    Sys2Proof.indexOpcodes, Sys2Proof.lengthOpcodes]

theorem Sys2Proof.Laws.EncodeLegal.sub : Sys2Proof.Laws.EncodeLegal.Statement .sub := by
  simp [Statement, Sys2Proof.encode, Sys2Proof.legal, Sys2Proof.Instr.wellFormed, Sys2Proof.assignedOpcodes,
    Sys2Proof.indexOpcodes, Sys2Proof.lengthOpcodes]

theorem Sys2Proof.Laws.EncodeLegal.subi : Sys2Proof.Laws.EncodeLegal.Statement .subi := by
  simp [Statement, Sys2Proof.encode, Sys2Proof.legal, Sys2Proof.Instr.wellFormed, Sys2Proof.assignedOpcodes,
    Sys2Proof.indexOpcodes, Sys2Proof.lengthOpcodes]

theorem Sys2Proof.Laws.EncodeLegal.lt : Sys2Proof.Laws.EncodeLegal.Statement .lt := by
  simp [Statement, Sys2Proof.encode, Sys2Proof.legal, Sys2Proof.Instr.wellFormed, Sys2Proof.assignedOpcodes,
    Sys2Proof.indexOpcodes, Sys2Proof.lengthOpcodes]

theorem Sys2Proof.Laws.EncodeLegal.lti : Sys2Proof.Laws.EncodeLegal.Statement .lti := by
  simp [Statement, Sys2Proof.encode, Sys2Proof.legal, Sys2Proof.Instr.wellFormed, Sys2Proof.assignedOpcodes,
    Sys2Proof.indexOpcodes, Sys2Proof.lengthOpcodes]

theorem Sys2Proof.Laws.EncodeLegal.rst : Sys2Proof.Laws.EncodeLegal.Statement .rst := by
  simp [Statement, Sys2Proof.encode, Sys2Proof.legal, Sys2Proof.Instr.wellFormed, Sys2Proof.assignedOpcodes,
    Sys2Proof.indexOpcodes, Sys2Proof.lengthOpcodes]

theorem Sys2Proof.Laws.EncodeLegal.rsti : Sys2Proof.Laws.EncodeLegal.Statement .rsti := by
  simp [Statement, Sys2Proof.encode, Sys2Proof.legal, Sys2Proof.Instr.wellFormed, Sys2Proof.assignedOpcodes,
    Sys2Proof.indexOpcodes, Sys2Proof.lengthOpcodes]

theorem Sys2Proof.Laws.EncodeLegal.gfmul (idx : Sys2Proof.Byte) : Sys2Proof.Laws.EncodeLegal.Statement (.gfmul idx) := by
  simp [Statement, Sys2Proof.encode, Sys2Proof.legal, Sys2Proof.Instr.wellFormed, Sys2Proof.assignedOpcodes,
    Sys2Proof.indexOpcodes, Sys2Proof.lengthOpcodes, Sys2Proof.gfmulIndexOk]
  rw [Bool.eq_iff_iff]
  simp

theorem Sys2Proof.Laws.EncodeLegal.rcon (idx : Sys2Proof.Byte) : Sys2Proof.Laws.EncodeLegal.Statement (.rcon idx) := by
  simp [Statement, Sys2Proof.encode, Sys2Proof.legal, Sys2Proof.Instr.wellFormed, Sys2Proof.assignedOpcodes,
    Sys2Proof.indexOpcodes, Sys2Proof.lengthOpcodes, Sys2Proof.rconIndexOk]
  rw [Bool.eq_iff_iff]
  simp
  omega
end

