-- ==== Sys2Proof/Tests/Slice0.lean ====
section
/-!
SUPPORT. Tests of one step each, with expected values from spec/95_test_vectors.md and the examples of the rules, and
for every obligation with hypotheses a state and operands that meet them.
-/

namespace Sys2Proof.Tests

open Sys2Proof.Machine

set_option Elab.async false

/-- A block from its 32 hex digits, byte 0 first (R12). -/
def hexBlock (n : Nat) : Block := ofBytes 16 fun j => BitVec.ofNat 8 (n / 2 ^ (8 * (15 - j)))

/-- Reset with `DIN` loaded. -/
def withDin (n : Nat) : State := { State.reset with din := hexBlock n }

/-- Reset with `KV` set, over the zero schedule. -/
def keyed : State := { State.reset with kv := true }

/-- A session of `z` blocks over zeros. -/
def session (z : Nat) : State := { State.reset with kv := true, ofbst := .running, ofbz := z }

/-- Reset with events pending. -/
def withEvents (es : List HostEvent) : State := { State.reset with pending := es }

/-- One step on a `CMD` write. -/
def issue (w : Word) (s : State) : Result := step { s with pending := [.access (.write 4 0x000 w)] }

/-- A property of the next state, false of a stop. -/
def holdsNext (r : Result) (p : State → Bool) : Bool :=
  match r with
  | .next t => p t
  | .fault _ => false
  | .refused _ => false

/-! ## WellFormed: every check refuses an ill-formed term -/

theorem test_wf_gfmul_in_range : (Instr.gfmul 15).wellFormed = true := by decide
theorem test_wf_gfmul_too_high : (Instr.gfmul 16).wellFormed = false := by decide
theorem test_wf_rcon_in_range : (Instr.rcon 1).wellFormed = true ∧ (Instr.rcon 32).wellFormed = true := by decide
theorem test_wf_rcon_zero : (Instr.rcon 0).wellFormed = false := by decide
theorem test_wf_rcon_too_high : (Instr.rcon 33).wellFormed = false := by decide

/-! ## Decoding: one word written out from R56 for every constructor, and every reason to reject (R58, R62) -/

theorem test_decode_nop : decodeWord 0x00000000 = .ok .nop := by decide
theorem test_decode_keyexp : decodeWord 0x00200001 = .ok (.keyexp 32) := by decide
theorem test_decode_keyclr : decodeWord 0x00000002 = .ok .keyclr := by decide
theorem test_decode_enc : decodeWord 0x00100010 = .ok (.enc 16) := by decide
theorem test_decode_dec : decodeWord 0x00100011 = .ok (.dec 16) := by decide
theorem test_decode_ofbinit : decodeWord 0x00200020 = .ok (.ofbinit 32) := by decide
theorem test_decode_ofb : decodeWord 0x00050021 = .ok (.ofb 5) := by decide
theorem test_decode_sub : decodeWord 0x00000030 = .ok .sub := by decide
theorem test_decode_subi : decodeWord 0x00000031 = .ok .subi := by decide
theorem test_decode_lt : decodeWord 0x00000032 = .ok .lt := by decide
theorem test_decode_lti : decodeWord 0x00000033 = .ok .lti := by decide
theorem test_decode_rst : decodeWord 0x00000034 = .ok .rst := by decide
theorem test_decode_rsti : decodeWord 0x00000035 = .ok .rsti := by decide
theorem test_decode_gfmul : decodeWord 0x00000F38 = .ok (.gfmul 15) := by decide
theorem test_decode_rcon : decodeWord 0x00002039 = .ok (.rcon 32) := by decide
theorem test_decode_reserved : decodeWord 0x01200001 = .error .reservedNotZero := by decide
theorem test_decode_unassigned : decodeWord 0x00000036 = .error .unassignedOpcode := by decide
theorem test_decode_index : decodeWord 0x00200101 = .error .indexNotZero := by decide
theorem test_decode_length : decodeWord 0x00100030 = .error .lengthNotZero := by decide
theorem test_decode_gfmul_range : decodeWord 0x00001038 = .error .indexOutOfRange := by decide
theorem test_decode_rcon_range :
    decodeWord 0x00000039 = .error .indexOutOfRange ∧ decodeWord 0x00002139 = .error .indexOutOfRange := by decide
theorem test_decode_short : decodeBytes [0x00, 0x00, 0x00] = .error .notOneWord := by decide
/-- Lane 0 of the word is the opcode (R38, R54). -/
theorem test_decode_lanes : decodeBytes [0x38, 0x07, 0x00, 0x00] = .ok (.gfmul 7) := by decide
theorem test_table_word : decodeTableWord 32 0x00100010 = some (.enc 16) ∧ decodeTableWord 8 0x130 = some .sub := by
  decide

/-! ## The configuration record (R63, R64, R68, R69) -/

/-- The table of R64, row by row, is the inverse the model computes from `PI`. -/
theorem test_pinv_table :
    (List.range 256).map (fun v => pinvByte referenceTables (BitVec.ofNat 8 v)) =
      [0xa5, 0x2d, 0x32, 0x8f, 0x0e, 0x30, 0x38, 0xc0, 0x54, 0xe6, 0x9e, 0x39, 0x55, 0x7e, 0x52, 0x91] ++
      [0x64, 0x03, 0x57, 0x5a, 0x1c, 0x60, 0x07, 0x18, 0x21, 0x72, 0xa8, 0xd1, 0x29, 0xc6, 0xa4, 0x3f] ++
      [0xe0, 0x27, 0x8d, 0x0c, 0x82, 0xea, 0xae, 0xb4, 0x9a, 0x63, 0x49, 0xe5, 0x42, 0xe4, 0x15, 0xb7] ++
      [0xc8, 0x06, 0x70, 0x9d, 0x41, 0x75, 0x19, 0xc9, 0xaa, 0xfc, 0x4d, 0xbf, 0x2a, 0x73, 0x84, 0xd5] ++
      [0xc3, 0xaf, 0x2b, 0x86, 0xa7, 0xb1, 0xb2, 0x5b, 0x46, 0xd3, 0x9f, 0xfd, 0xd4, 0x0f, 0x9c, 0x2f] ++
      [0x9b, 0x43, 0xef, 0xd9, 0x79, 0xb6, 0x53, 0x7f, 0xc1, 0xf0, 0x23, 0xe7, 0x25, 0x5e, 0xb5, 0x1e] ++
      [0xa2, 0xdf, 0xa6, 0xfe, 0xac, 0x22, 0xf9, 0xe2, 0x4a, 0xbc, 0x35, 0xca, 0xee, 0x78, 0x05, 0x6b] ++
      [0x51, 0xe1, 0x59, 0xa3, 0xf2, 0x71, 0x56, 0x11, 0x6a, 0x89, 0x94, 0x65, 0x8c, 0xbb, 0x77, 0x3c] ++
      [0x7b, 0x28, 0xab, 0xd2, 0x31, 0xde, 0xc4, 0x5f, 0xcc, 0xcf, 0x76, 0x2c, 0xb8, 0xd8, 0x2e, 0x36] ++
      [0xdb, 0x69, 0xb3, 0x14, 0x95, 0xbe, 0x62, 0xa1, 0x3b, 0x16, 0x66, 0xe9, 0x5c, 0x6c, 0x6d, 0xad] ++
      [0x37, 0x61, 0x4b, 0xb9, 0xe3, 0xba, 0xf1, 0xa0, 0x85, 0x83, 0xda, 0x47, 0xc5, 0xb0, 0x33, 0xfa] ++
      [0x96, 0x6f, 0x6e, 0xc2, 0xf6, 0x50, 0xff, 0x5d, 0xa9, 0x8e, 0x17, 0x1b, 0x97, 0x7d, 0xec, 0x58] ++
      [0xf7, 0x1f, 0xfb, 0x7c, 0x09, 0x0d, 0x7a, 0x67, 0x45, 0x87, 0xdc, 0xe8, 0x4f, 0x1d, 0x4e, 0x04] ++
      [0xeb, 0xf8, 0xf3, 0x3e, 0x3d, 0xbd, 0x8a, 0x88, 0xdd, 0xcd, 0x0b, 0x13, 0x98, 0x02, 0x93, 0x80] ++
      [0x90, 0xd0, 0x24, 0x34, 0xcb, 0xed, 0xf4, 0xce, 0x99, 0x10, 0x44, 0x40, 0x92, 0x3a, 0x01, 0x26] ++
      [0x12, 0x1a, 0x48, 0x68, 0xf5, 0x81, 0x8b, 0xc7, 0xd6, 0x20, 0x0a, 0x08, 0x00, 0x4c, 0xd7, 0x74] := by
  decide +kernel
theorem test_reference_build_wf : referenceBuild.WellFormed := by decide +kernel
/-- The first table row of `gfmul 4` in spec/95 §3.3: lanes 0x80 and 0xff. -/
theorem test_gf_lanes : gf referenceTables 0xc2 0x80 = 0x6e ∧ gf referenceTables 0xc2 0xff = 0x0a := by decide

/-! ## The commands: expected values from spec/95 §2 and §3 -/

/-- `nop` after `enc 16` failed with `NO_KEY` (the example of R106). -/
theorem test_nop_clears_error :
    holdsNext (issue 0x00000000 { State.reset with err := .noKey }) (fun t => statusWord t == 0x00000000) = true := by
  decide +kernel
theorem test_keyexp_wrong_length :
    holdsNext (issue 0x00100001 { State.reset with key := Vector.replicate 32 0xff })
      (fun t => statusWord t == 0x00000001 && t.key == zeros 32 && t.reply == .done) = true := by decide +kernel
theorem test_keyexp_zero_key_status :
    holdsNext (issue 0x00200001 State.reset) (fun t => statusWord t == 0x00000100 && t.key == zeros 32) = true := by
  decide +kernel
/-- `RK[2]` and `RK[3]` of the §8 key (spec/95 §2.2). -/
theorem test_first_group_of_key_schedule :
    feistelGroup referenceTables 0
        (hexBlock 0x8899aabbccddeeff0011223344556677, hexBlock 0xfedcba98765432100123456789abcdef) =
      (hexBlock 0xdb31485315694343228d6aef8cc78c44, hexBlock 0x3d4553d8e9cfec6815ebadc40a9ffd04) := by
  decide +kernel
theorem test_keyclr_ends_session :
    holdsNext (issue 0x00000002 (session 2)) (fun t => statusWord t == 0x00000000) = true := by decide +kernel

/-- The round keys of the §8 key (spec/95 §2.2). -/
def exampleRoundKeys : RoundKeys :=
  #v[hexBlock 0x8899aabbccddeeff0011223344556677, hexBlock 0xfedcba98765432100123456789abcdef,
    hexBlock 0xdb31485315694343228d6aef8cc78c44, hexBlock 0x3d4553d8e9cfec6815ebadc40a9ffd04,
    hexBlock 0x57646468c44a5e28d3e59246f429f1ac, hexBlock 0xbd079435165c6432b532e82834da581b,
    hexBlock 0x51e640757e8745de705727265a0098b1, hexBlock 0x5a7925017b9fdd3ed72a91a22286f984,
    hexBlock 0xbb44e25378c73123a5f32f73cdb6e517, hexBlock 0x72e9dd7416bcf45b755dbaa88e4a4043]

theorem round_0 : encryptRound referenceTables exampleRoundKeys
    (hexBlock 0x1122334455667700ffeeddccbbaa9988) 0 = hexBlock 0xe297b686e355b0a1cf4a2f9249140830 := by decide +kernel
theorem round_1 : encryptRound referenceTables exampleRoundKeys
    (hexBlock 0xe297b686e355b0a1cf4a2f9249140830) 1 = hexBlock 0x285e497a0862d596b36f4258a1c69072 := by decide +kernel
theorem round_2 : encryptRound referenceTables exampleRoundKeys
    (hexBlock 0x285e497a0862d596b36f4258a1c69072) 2 = hexBlock 0x0187a3a429b567841ad50d29207cc34e := by decide +kernel
theorem round_3 : encryptRound referenceTables exampleRoundKeys
    (hexBlock 0x0187a3a429b567841ad50d29207cc34e) 3 = hexBlock 0xec9bdba057d4f4d77c5d70619dcad206 := by decide +kernel
theorem round_4 : encryptRound referenceTables exampleRoundKeys
    (hexBlock 0xec9bdba057d4f4d77c5d70619dcad206) 4 = hexBlock 0x1357fd11de9257290c2a1473eb6bcde1 := by decide +kernel
theorem round_5 : encryptRound referenceTables exampleRoundKeys
    (hexBlock 0x1357fd11de9257290c2a1473eb6bcde1) 5 = hexBlock 0x28ae31e7d4c2354261027ef0b32897df := by decide +kernel
theorem round_6 : encryptRound referenceTables exampleRoundKeys
    (hexBlock 0x28ae31e7d4c2354261027ef0b32897df) 6 = hexBlock 0x07e223d56002c013d3f5e6f714b86d2d := by decide +kernel
theorem round_7 : encryptRound referenceTables exampleRoundKeys
    (hexBlock 0x07e223d56002c013d3f5e6f714b86d2d) 7 = hexBlock 0xcd8ef6cd97e0e092a8e4cca61b38bf65 := by decide +kernel
theorem round_8 : encryptRound referenceTables exampleRoundKeys
    (hexBlock 0xcd8ef6cd97e0e092a8e4cca61b38bf65) 8 = hexBlock 0x0d8e40e4a800d06b2f1b37ea379ead8e := by decide +kernel

/-- The published block vector (spec/95 §2.3), round by round. -/
theorem test_enc_published_vector :
    encrypt referenceTables exampleRoundKeys (hexBlock 0x1122334455667700ffeeddccbbaa9988) =
      hexBlock 0x7f679d90bebc24305a468d42b9d4edcd := by
  have h : (List.range 9).foldl (encryptRound referenceTables exampleRoundKeys)
      (hexBlock 0x1122334455667700ffeeddccbbaa9988) = hexBlock 0x0d8e40e4a800d06b2f1b37ea379ead8e := by
    simp only [List.range_succ, List.range_zero, List.foldl_append, List.foldl_cons, List.foldl_nil, round_0, round_1,
      round_2, round_3, round_4, round_5, round_6, round_7, round_8]
  rw [encrypt, h]
  decide +kernel
theorem test_enc_needs_key_first :
    holdsNext (issue 0x000F0010 State.reset) (fun t => statusWord t == 0x00000011 && t.dout == zeros 16) = true := by
  decide +kernel
theorem test_dec_wrong_length :
    holdsNext (issue 0x00200011 keyed) (fun t => statusWord t == 0x00000102 && t.dout == zeros 16) = true := by
  decide +kernel
/-- One round of decryption undoes the last round of the vector above. -/
theorem test_dec_round :
    decryptRound referenceTables exampleRoundKeys (hexBlock 0x0d8e40e4a800d06b2f1b37ea379ead8e) 8 =
      hexBlock 0xcd8ef6cd97e0e092a8e4cca61b38bf65 := by decide +kernel
theorem test_ofbinit_whole_buffer :
    holdsNext (issue 0x00400020 { keyed with ivbuf := List.replicate 64 0x5a })
      (fun t => statusWord t == 0x00040300 && t.ofbreg == List.replicate 64 0x5a) = true := by decide +kernel
theorem test_ofbinit_keeps_session_on_error :
    holdsNext (issue 0x00180020 (session 2)) (fun t => statusWord t == 0x00020303) = true := by decide +kernel
theorem test_ofb_too_long :
    holdsNext (issue 0x00110021 (session 2)) (fun t => statusWord t == 0x00020304) = true := by decide +kernel
theorem test_ofb_tail_status :
    holdsNext (issue 0x00050021 (session 2)) (fun t => statusWord t == 0x00020500) = true := by decide +kernel
/-- The tail of spec/95 §3.6 from its gamma: only the first five bytes are output. -/
theorem test_ofb_tail_output :
    tailOutput 5 (hexBlock 0xed4a659440d99cc3072c8b8d517dd9b5) (hexBlock 0x00112233440000000000000000000000) =
      hexBlock 0xed5b47a7040000000000000000000000 := by decide +kernel
theorem test_sub :
    holdsNext (issue 0x00000030 (withDin 0xffeeddccbbaa99881122334455667700))
      (fun t => t.dout == hexBlock 0xb66cd8887d38e8d77765aeea0c9a7efc && statusWord t == 0x00000000) = true := by decide +kernel
theorem test_subi :
    holdsNext (issue 0x00000031 (withDin 0x000102030405060708090a0b0c0d0e0f))
      (fun t => t.dout == hexBlock 0xa52d328f0e3038c054e69e39557e5291 && statusWord t == 0x00000000) = true := by decide +kernel
theorem test_lt :
    holdsNext (issue 0x00000032 (withDin 0x64a59400000000000000000000000000))
      (fun t => t.dout == hexBlock 0xd456584dd0e3e84cc3166e4b7fa2890d && statusWord t == 0x00000000) = true := by decide +kernel
theorem test_lti :
    holdsNext (issue 0x00000033 (withDin 0xffffffffffffffffffffffffffffffff))
      (fun t => t.dout == hexBlock 0x83d34fb37f6e82d18f30e058816b6727 && statusWord t == 0x00000000) = true := by decide +kernel
theorem test_rst :
    holdsNext (issue 0x00000034 (withDin 0x000102030405060708090a0b0c0d0e0f))
      (fun t => t.dout == hexBlock 0xd7000102030405060708090a0b0c0d0e && statusWord t == 0x00000000) = true := by decide +kernel
theorem test_rsti :
    holdsNext (issue 0x00000035 (withDin 0x000102030405060708090a0b0c0d0e0f))
      (fun t => t.dout == hexBlock 0x0102030405060708090a0b0c0d0e0fa8 && statusWord t == 0x00000000) = true := by decide +kernel
theorem test_gfmul :
    holdsNext (issue 0x00000438 (withDin 0x000102030405060708090a0b0c0d0e0f))
      (fun t => t.dout == hexBlock 0x00c247858e4cc90bdf1d985a519316d4 && statusWord t == 0x00000000) = true := by decide +kernel
theorem test_rcon :
    holdsNext (issue 0x00002039 (withDin 0x00000000000000000000000000000000))
      (fun t => t.dout == hexBlock 0x5ea7d8581e149b61f16ac1459ceda820 && statusWord t == 0x00000000) = true := by decide +kernel
theorem test_gfmul_illegal_index :
    holdsNext (issue 0x00001038 (withDin 1)) (fun t => statusWord t == 0x00000010 && t.dout == zeros 16) = true := by
  decide +kernel
theorem test_rcon_illegal_index :
    holdsNext (issue 0x00000039 (withDin 1)) (fun t => statusWord t == 0x00000010 && t.dout == zeros 16) = true := by
  decide +kernel

/-! ## The window, reset and the stop -/

/-- The first word of the §8 key (spec/95 §1.1). -/
theorem test_key_write :
    holdsNext (step (withEvents [.access (.write 4 0x020 0xBBAA9988)]))
      (fun t => byteAt t.key 0 == 0x88 && byteAt t.key 3 == 0xbb && byteAt t.key 4 == 0) = true := by decide +kernel
theorem test_iv_write_beyond_zmax_ignored :
    holdsNext (step (withEvents [.access (.write 4 0x140 0xffffffff)])) (fun t => t.ivbuf == zeroList 64) = true := by
  decide +kernel
theorem test_info_read :
    holdsNext (step (withEvents [.access (.read 4 0x008)])) (fun t => t.reply == .data 0x100A0401) = true := by
  decide +kernel
theorem test_key_reads_zero :
    holdsNext (step { withEvents [.access (.read 4 0x020)] with key := Vector.replicate 32 0xff })
      (fun t => t.reply == .data 0) = true := by decide +kernel
/-- A byte write to `CMD` executes no command (R40). -/
theorem test_byte_write_to_cmd :
    holdsNext (step { withEvents [.access (.write 1 0x000 0)] with err := .noKey })
      (fun t => t.reply == .busFault 0 && t.err == .noKey) = true := by decide +kernel
theorem test_reset_during_command :
    holdsNext (step { session 2 with pending := [.resetDuringCommand 0x00200001] })
      (fun t => t.kv == false && t.ofbz == 0 && t.reply == .cutByReset) = true := by decide +kernel
theorem test_outside_window : step (withEvents [.access (.read 4 0x400)]) = .fault (.outsideWindow 0x400) := rfl
/-- `cmd` is the only way to write an illegal word (R60). -/
theorem test_wr_refuses_illegal_word :
    assemble 4 (.wr 0x000 0x01100010) = none ∧ assemble 4 (.cmd 0x01100010) = some [.write 4 0x000 0x01100010] := by
  decide
theorem test_wr_legal_word_and_register :
    assemble 4 (.wr 0x000 0x00100010) = some [.write 4 0x000 0x00100010] ∧
    assemble 4 (.wr 0x040 0xFF000000) = some [.write 4 0x040 0xFF000000] := by decide
theorem test_fetch_word :
    (State.reset.withFetchWord 32 0x00000030).pending = [.access (.write 4 0x000 0x00000030)] := by decide

/-! ## States and operands that meet the hypotheses of the obligations -/

theorem witness_EncodedCommandDecodesToItself :
    (Instr.keyexp 255).wellFormed = true ∧ (Instr.gfmul 15).wellFormed = true ∧ (Instr.rcon 1).wellFormed = true := by decide
theorem witness_DecodedWordIsItsEncoding :
    decodeWord 0x00002039 = .ok (.rcon 32) ∧ decodeWord 0x00FF0021 = .ok (.ofb 255) := by decide
theorem witness_StepRunsDecodedCommand :
    (withEvents [.access (.write 4 0x000 0x00200001)]).pending = .access (.write 4 0x000 0x00200001) :: [] ∧
      decodeWord 0x00200001 = .ok (.keyexp 32) := by decide
theorem witness_IllegalWordOnlyReports :
    (withEvents [.access (.write 4 0x000 0x01200001)]).pending = .access (.write 4 0x000 0x01200001) :: [] ∧
      legal 0x01200001 = false := by decide
theorem witness_UnacceptedAccessOnlyGetsBusFault :
    ((withEvents [.access (.read 2 0x3FF)]).pending = .access (.read 2 0x3FF) :: [] ∧
      (Access.read 2 0x3FF).offset < 0x400 ∧ ¬ ((Access.read 2 0x3FF).width = 4 ∧ (Access.read 2 0x3FF).offset % 4 = 0)) ∧
    ((withEvents [.access (.write 4 0x001 0)]).pending = .access (.write 4 0x001 0) :: [] ∧
      (Access.write 4 0x001 0).offset < 0x400 ∧
      ¬ ((Access.write 4 0x001 0).width = 4 ∧ (Access.write 4 0x001 0).offset % 4 = 0)) := by decide
theorem witness_ReadAnswersWordAndChangesNothing :
    (withEvents [.access (.read 4 0x3FC)]).pending = .access (.read 4 0x3FC) :: [] ∧ 0x3FC < 0x400 ∧ 0x3FC % 4 = 0 := by decide
/-- Both ends of every range, with ZMAX = 4, and the value each clause gives there. -/
theorem witness_WindowBytesShowTheMappedRegisters :
    State.reset.build.zmax ≤ 15 ∧
    [(0x004, 0x12), (0x005, 0x01), (0x006, 0x02), (0x007, 0x00)].all (fun p => decide (0x004 ≤ p.1 ∧ p.1 < 0x008 ∧
      windowByte p.1 { session 2 with ofbst := .uninit, err := .ofbNotReady } = BitVec.ofNat 8 p.2)) ∧
    [(0x008, 0x01), (0x009, 0x04), (0x00A, 0x0A), (0x00B, 0x10)].all (fun p => decide (0x008 ≤ p.1 ∧ p.1 < 0x00C ∧
      windowByte p.1 State.reset = BitVec.ofNat 8 p.2)) ∧
    [0x040, 0x04F].all (fun off => decide (0x040 ≤ off ∧ off < 0x050 ∧
      windowByte off (withDin 0x0102030405060708090a0b0c0d0e0f10) = BitVec.ofNat 8 (off - 0x03F))) ∧
    [0x050, 0x05F].all (fun off => decide (0x050 ≤ off ∧ off < 0x060 ∧
      windowByte off { State.reset with dout := hexBlock 0x0102030405060708090a0b0c0d0e0f10 } =
        BitVec.ofNat 8 (off - 0x04F))) ∧
    [0x100, 0x13F].all (fun off => decide (0x100 ≤ off ∧ off < 0x100 + 16 * State.reset.build.zmax ∧
      windowByte off { State.reset with ivbuf := List.replicate 64 0x5a } = 0x5a)) ∧
    [0x200, 0x23F].all (fun off => decide (0x200 ≤ off ∧ off < 0x200 + 16 * State.reset.build.zmax ∧
      windowByte off { State.reset with ofbreg := List.replicate 64 0x5a } = 0x5a)) ∧
    [0x000, 0x003, 0x00C, 0x03F, 0x060, 0x0FF, 0x140, 0x1FF, 0x240, 0x3FF].all (fun off => decide (off < 0x400 ∧
      (off < 0x004 ∨ (0x00C ≤ off ∧ off < 0x040) ∨ (0x060 ≤ off ∧ off < 0x100) ∨
        (0x100 + 16 * State.reset.build.zmax ≤ off ∧ off < 0x200) ∨ 0x200 + 16 * State.reset.build.zmax ≤ off) ∧
      windowByte off { State.reset with ivbuf := List.replicate 64 0x5a, ofbreg := List.replicate 64 0x5a } = 0)) := by
  decide +kernel
/-- The first and the last offset of every region a write can name but `CMD`. -/
theorem witness_WindowWriteStoresItsLanes :
    [0x004, 0x008, 0x00C, 0x01C, 0x020, 0x03C, 0x040, 0x04C, 0x050, 0x05C, 0x100, 0x13C, 0x140, 0x1EC, 0x200,
      0x3FC].all (fun off =>
      decide ((withEvents [.access (.write 4 off 0)]).pending = .access (.write 4 off 0) :: [] ∧
        0 < off ∧ off < 0x400 ∧ off % 4 = 0)) ∧
    State.reset.build.zmax ≤ 15 ∧ State.reset.ivbuf.length = 16 * State.reset.build.zmax := by decide +kernel
/-- The four ends of the two ranges. -/
theorem witness_WrittenWordReadsBack :
    [0x040, 0x04C, 0x100, 0x13C].all (fun off =>
      decide ((withEvents [.access (.write 4 off 7), .access (.read 4 off)]).pending =
          .access (.write 4 off 7) :: .access (.read 4 off) :: [] ∧ off % 4 = 0 ∧
        ((0x040 ≤ off ∧ off < 0x050) ∨ (0x100 ≤ off ∧ off < 0x100 + 16 * State.reset.build.zmax)))) ∧
    State.reset.build.zmax ≤ 15 ∧ State.reset.ivbuf.length = 16 * State.reset.build.zmax := by decide +kernel
theorem witness_KeyReachesNothingButKeyexp :
    (∀ w rest, (withEvents [.access (.write 4 0x000 0x00100001)]).pending = .access (.write 4 0x000 w) :: rest →
      decodeWord w ≠ .ok (.keyexp 32)) ∧
    ∃ t, step (withEvents [.access (.write 4 0x000 0x00100001)]) = .next t := by
  refine ⟨fun w rest h => ?_, _, rfl⟩
  simp only [withEvents, List.cons.injEq, HostEvent.access.injEq, Access.write.injEq, true_and] at h
  rw [← h.1]
  decide
theorem witness_HostAddressesReachTheWindowAtCoreBase :
    (0x000 < 0x400 ∧ 0x3FF < 0x400) ∧ 0x400 ≤ (Config.coreBase + 0x400) - Config.coreBase := by
  refine ⟨by decide, by omega⟩
theorem witness_ResetRestoresEveryRegister :
    { session 2 with pending := [.reset] }.pending = .reset :: [] ∧
    { session 2 with pending := [.resetDuringCommand 1] }.pending = .resetDuringCommand 1 :: [] := by decide
theorem witness_ResetSatisfiesTheInvariant : referenceBuild.WellFormed := test_reference_build_wf
theorem witness_StepKeepsTheInvariant :
    (session 2).Inv ∧ ∃ t, step { session 2 with pending := [.access (.write 4 0x000 0)] } = .next t :=
  ⟨⟨⟨test_reference_build_wf, by decide +kernel⟩, by decide +kernel⟩, _, rfl⟩
theorem witness_ReachableStatesSatisfyI1ToI5 :
    referenceBuild.WellFormed ∧ ∃ s, s.err = .noKey ∧ Reachable referenceBuild s := by
  refine ⟨test_reference_build_wf, _, ?_, .step (.reset [.access (.write 4 0x000 0x00100010)]) rfl⟩
  rfl
theorem witness_StepKeepsTheBuild : ∃ t, step (withEvents [.reset]) = .next t := ⟨_, rfl⟩
theorem witness_CommandsKeepTheirInputs : ∃ t, exec .keyclr (session 2) = .next t := ⟨_, rfl⟩
/-- Every way the schedule can change. -/
theorem witness_ScheduleChangesOnlyByKeyCommandsAndReset :
    (∃ t, step { keyed with pending := [.access (.write 4 0x000 0x00000002)] } = .next t ∧ t.kv ≠ keyed.kv) ∧
    (∃ t, step { keyed with pending := [.reset] } = .next t ∧ t.kv ≠ keyed.kv) ∧
    (∃ t, step { keyed with pending := [.resetDuringCommand 0] } = .next t ∧ t.kv ≠ keyed.kv) ∧
    ∃ t, step (withEvents [.access (.write 4 0x000 0x00200001)]) = .next t ∧ t.kv ≠ State.reset.kv := by
  refine ⟨⟨_, rfl, ?_⟩, ⟨_, rfl, ?_⟩, ⟨_, rfl, ?_⟩, ⟨_, rfl, ?_⟩⟩ <;> decide +kernel
theorem witness_FailedCommandChangesOnlyErr :
    (∃ t, exec (.enc 16) State.reset = .next t ∧ t.err ≠ .ok) ∧
    ∃ t, exec (.keyexp 0) State.reset = .next t ∧ t.err ≠ .ok := by
  refine ⟨⟨_, rfl, ?_⟩, ⟨_, rfl, ?_⟩⟩ <;> decide +kernel
/-- The lengths next to each bound, and the states of each clause. -/
theorem witness_ErrorsAreReportedInCheckOrder :
    legal 0x01100010 = false ∧ (31#8).toNat ≠ 32 ∧ (33#8).toNat ≠ 32 ∧
    Instr.gfmul 15 ∈ ([.nop, .keyclr, .sub, .subi, .lt, .lti, .rst, .rsti, .gfmul 15, .rcon 15] : List Instr) ∧
    (Instr.gfmul 15).wellFormed = true ∧ (Instr.rcon 15).wellFormed = true ∧
    State.reset.kv = false ∧ keyed.kv = true ∧ (15#8).toNat ≠ 16 ∧ (17#8).toNat ≠ 16 ∧ (0#8).toNat = 0 ∧
    (63#8).toNat % 16 ≠ 0 ∧ 16 * keyed.build.zmax < (80#8).toNat ∧ keyed.ofbst ≠ .running ∧
    (session 1).kv = true ∧ (session 1).ofbst = .running ∧ 16 < (17#8).toNat := by decide +kernel
/-- One command for each clause. -/
theorem witness_OfbStateTransitions :
    (∃ t, exec (.ofb 17) (session 1) = .next t ∧ t.err ≠ .ok) ∧
    (∃ t, exec (.ofbinit 16) keyed = .next t ∧ t.err = .ok) ∧
    (∃ t, exec (.ofb 0) (session 1) = .next t ∧ t.err = .ok) ∧
    (∃ t, exec (.ofb 16) (session 1) = .next t ∧ t.err = .ok) ∧
    (∃ t, exec (.ofb 1) (session 1) = .next t ∧ t.err = .ok) ∧
    (∃ t, exec (.ofb 15) (session 1) = .next t ∧ t.err = .ok) ∧
    (∃ t, exec (.keyexp 32) (session 1) = .next t ∧ t.err = .ok) ∧
    (∃ t, exec .keyclr (session 1) = .next t ∧ t.err = .ok) ∧
    ∃ t, exec .nop (session 1) = .next t := by
  refine ⟨⟨_, rfl, ?_⟩, ⟨_, rfl, ?_⟩, ⟨_, rfl, ?_⟩, ⟨_, rfl, ?_⟩, ⟨_, rfl, ?_⟩, ⟨_, rfl, ?_⟩, ⟨_, rfl, ?_⟩,
    ⟨_, rfl, ?_⟩, ⟨_, rfl⟩⟩ <;> decide +kernel
/-- The ends of the ranges of both clauses. -/
theorem witness_CommandsChangeOnlyTheirWindowBytes :
    (∃ t, exec (.ofb 16) (session 2) = .next t) ∧ (∃ t, exec .sub State.reset = .next t) ∧
    [0x000, 0x003, 0x008, 0x04F, 0x060, 0x1FF, 0x2F0, 0x3FF].all (fun off =>
      decide (off < 0x004 ∨ (0x008 ≤ off ∧ off < 0x050) ∨ (0x060 ≤ off ∧ off < 0x200) ∨ 0x2F0 ≤ off)) ∧
    [0x005, 0x04F, 0x060, 0x2EF].all (fun off => decide (off ≠ 0x004 ∧ (off < 0x050 ∨ 0x060 ≤ off))) :=
  ⟨⟨_, rfl⟩, ⟨_, rfl⟩, by decide, by decide⟩
theorem witness_SubstitutionInverse : referenceTables.pi.toList.Nodup := test_reference_build_wf.2.2.1
theorem witness_RStepInverse : referenceTables.coef[15] = 1 := by decide +kernel
theorem witness_LinearTransformInverse : referenceTables.coef[15] = 1 := by decide +kernel
theorem witness_DecryptAndEncryptAreInverse :
    referenceTables.pi.toList.Nodup ∧ referenceTables.coef[15] = 1 := test_reference_build_wf.2.2
theorem witness_KeyScheduleStartsWithTheKeyAndIsInjective :
    roundKey (keySchedule referenceTables (zeros 32)) 8 = roundKey (keySchedule referenceTables (zeros 32)) 8 ∧
    roundKey (keySchedule referenceTables (zeros 32)) 9 = roundKey (keySchedule referenceTables (zeros 32)) 9 :=
  ⟨rfl, rfl⟩
theorem witness_KeyexpInstallsScheduleAndWipesKey :
    (32#8).toNat = 32 ∧ (31#8).toNat ≠ 32 ∧ (0#8).toNat ≠ 32 ∧ (255#8).toNat ≠ 32 := by decide
theorem witness_EncAndDecDeliverTheBlock : keyed.kv = true ∧ (16#8).toNat = 16 := by decide +kernel
theorem witness_DecAfterEncReturnsTheBlock : keyed.build.WellFormed ∧ keyed.kv = true :=
  ⟨test_reference_build_wf, rfl⟩
theorem witness_OfbinitLoadsTheRegister :
    keyed.kv = true ∧ keyed.ivbuf.length = 16 * keyed.build.zmax ∧
    (1 ≤ (16#8).toNat ∧ (16#8).toNat % 16 = 0 ∧ (16#8).toNat ≤ 16 * keyed.build.zmax) ∧
    (1 ≤ (64#8).toNat ∧ (64#8).toNat % 16 = 0 ∧ (64#8).toNat ≤ 16 * keyed.build.zmax) := by decide +kernel
theorem witness_OfbFullBlockAdvancesTheRegister :
    [1, 4].all (fun z => decide ((session z).kv = true ∧ (session z).ofbst = .running ∧ (16#8).toNat = 16 ∧
      (session z).ofbreg.length = 16 * (session z).build.zmax ∧ 1 ≤ (session z).ofbz ∧
      (session z).ofbz ≤ (session z).build.zmax)) := by decide +kernel
theorem witness_OfbTailEndsTheSession :
    (session 1).kv = true ∧ (session 1).ofbst = .running ∧ (1 ≤ (1#8).toNat ∧ (1#8).toNat ≤ 15) ∧
    1 ≤ (15#8).toNat ∧ (15#8).toNat ≤ 15 := by decide +kernel
theorem witness_OfbOfNoBytesOnlyReportsSuccess :
    (session 1).kv = true ∧ (session 1).ofbst = .running ∧ (0#8).toNat = 0 := by decide +kernel
theorem witness_OfbCommandsComputeTheStream :
    keyed.kv = true ∧ keyed.build.zmax ≤ 15 ∧ keyed.ivbuf.length = 16 * keyed.build.zmax ∧
    (1 ≤ 1 ∧ 1 ≤ keyed.build.zmax) ∧ 1 ≤ 4 ∧ 4 ≤ keyed.build.zmax := by decide +kernel
theorem witness_SubAndSubiMapEachLane : State.reset.build.WellFormed := test_reference_build_wf
/-- The row of R83 that copies `DIN`, and a `DIN` with lanes 0 and 1. -/
theorem witness_GfmulMultipliesEachLane :
    (0#8).toNat ≤ 15 ∧ (15#8).toNat ≤ 15 ∧ byteAt (withDin 0x0001).din 14 = 0 ∧ byteAt (withDin 0x0001).din 15 = 1 ∧
    byteAt (withDin 1).build.tables.coef (15#8).toNat = 1 := by decide +kernel
theorem witness_RconDeliversTheRoundConstant :
    (1 ≤ (1#8).toNat ∧ (1#8).toNat ≤ 32) ∧ 1 ≤ (32#8).toNat ∧ (32#8).toNat ≤ 32 := by decide
theorem witness_AssembledStatementsAreAcceptedAndLegal :
    4 ≤ 15 ∧ assemble 4 (.rcon 32) = some [.write 4 0x000 0x00002039] ∧ assemble 4 (.rcon 33) = none ∧
    assemble 4 (.wr 0x3FF 0) = some [.write 4 0x3FF 0] ∧ assemble 4 (.cmd 0xFF) = some [.write 4 0x000 0xFF] ∧
    (∀ w, Stmt.wr 0x3FF 0 ≠ .cmd w) ∧ (∀ off w, Stmt.cmd 0xFF ≠ .wr off w) ∧ (∀ off, Stmt.cmd 0xFF ≠ .rd off) ∧
    (assemble 4 (.ldiv (List.replicate 64 0))).isSome = true := by
  refine ⟨by decide, by decide, by decide, by decide, by decide, ?_, ?_, ?_, by decide +kernel⟩ <;> simp
theorem witness_LdkeyLoadsTheKey : (List.replicate 32 (0xff : Byte)).length = 32 := by decide

end Sys2Proof.Tests
end

section
/-!
The scope family (spec/00_scope.md): no step writes the build, the host's map reaches the window at `CORE_BASE`, and
reset establishes the invariant.
-/

namespace Sys2Proof.Machine

/-! ## The build is kept (R9, R32, R121) -/

/-- No command writes what the host loads for it, the port's fields or the build. -/
theorem CommandEffect.frame {s t : State} {i : Instr} (h : CommandEffect s i t) :
    t.din = s.din ∧ t.ivbuf = s.ivbuf ∧ t.build = s.build ∧ t.pending = s.pending ∧ t.reply = s.reply := by
  cases h <;> simp

@[simp] theorem storeWindow_build (off : Nat) (w : Word) (s : State) : (storeWindow off w s).build = s.build := by
  obtain ⟨i, h⟩ | ⟨i, h⟩ | ⟨i, h⟩ | h := storeWindow_cases off w s <;> simp [h]

theorem EventEffect.build_eq {s t : State} {e : HostEvent} (h : EventEffect s e t) : t.build = s.build := by
  cases h with
  | reset => simp
  | resetDuringCommand w => simp
  | busFault => simp
  | read => simp
  | store => simp
  | illegal => simp
  | command _ ht =>
    obtain ⟨-, -, hbuild, -, -⟩ := ht.frame
    simpa using hbuild

/-- Settles O23: a step either does nothing or has the effect of one host event, and no event writes the build. -/
theorem stepKeepsTheBuild : Obligations.StepKeepsTheBuild := by
  unfold Obligations.StepKeepsTheBuild
  intro s t h
  obtain ⟨-, rfl⟩ | ⟨e, rest, -, he⟩ := step_effect h
  · rfl
  · simpa using he.build_eq

/-! ## The window in the host's map (R14, R36) -/

theorem coreBase_mod_windowSize : Config.coreBase % windowSize = 0 := by
  rw [Config.coreBase]
  exact Nat.mul_mod_right _ _

theorem windowOffset_coreBase_add {off : Nat} (h : off < windowSize) :
    windowOffset (Config.coreBase + off) = some off := by
  simp [windowOffset, h]

theorem windowOffset_eq_none {addr : Nat} (h : addr < Config.coreBase ∨ windowSize ≤ addr - Config.coreBase) :
    windowOffset addr = none := by
  rw [windowOffset, if_neg]
  omega

/-- Settles O16: both accesses are made of `windowOffset`, which is the offset inside the window and none outside. -/
theorem hostAddressesReachTheWindowAtCoreBase : Obligations.HostAddressesReachTheWindowAtCoreBase := by
  unfold Obligations.HostAddressesReachTheWindowAtCoreBase
  refine ⟨coreBase_mod_windowSize, fun off v hin => ?_, fun addr v hout => ?_⟩
  · simp [memRead, memWrite, windowOffset_coreBase_add hin]
  · simp [memRead, memWrite, windowOffset_eq_none hout]

/-! ## Reset establishes the invariant (R8, R34, R35) -/

theorem referencePiList_nodup : referencePiList.Nodup := by decide +kernel

theorem referenceBuild_wellFormed : referenceBuild.WellFormed :=
  ⟨by decide, by decide, referencePiList_nodup, rfl⟩

theorem resetOf_widthsOk {b : Build} (hb : b.WellFormed) : (State.resetOf b).WidthsOk :=
  ⟨hb, length_zeroList _, length_zeroList _⟩

theorem resetOf_deadBytesZero (b : Build) : (State.resetOf b).DeadBytesZero := by
  simp [State.DeadBytesZero, State.resetOf, zeroList]

/-- Reset has no key, so its schedule is zero, and no session, so its OFB register is zero. -/
theorem resetOf_inv {b : Build} (hb : b.WellFormed) : (State.resetOf b).Inv :=
  ⟨resetOf_widthsOk hb, fun _ => rfl, fun hsession => absurd rfl hsession, fun _ => ⟨rfl, rfl⟩,
    resetOf_deadBytesZero b⟩

/-- Settles O19: the invariant holds at reset of any well-formed build, and the reference build is one. -/
theorem resetSatisfiesTheInvariant : Obligations.ResetSatisfiesTheInvariant := by
  unfold Obligations.ResetSatisfiesTheInvariant
  exact ⟨resetOf_inv referenceBuild_wellFormed, fun _ hb => resetOf_inv hb⟩

end Sys2Proof.Machine
end

section
/-!
The state family (spec/10_state.md): the invariants I1 to I5, which state a command or an event may write, the
transitions of `OFBST`, who reads `KEY`, and the words `STATUS` and `INFO`.
-/

namespace Sys2Proof.Machine

/-! ## What the invariant speaks of (R34)

The invariant reads the build, `RK`, `KV`, the length of `IVBUF` and the OFB registers; an update of any other field
leaves it as it is. -/

@[simp] theorem setErr_inv (c : ErrorCode) (s : State) : (setErr c s).Inv ↔ s.Inv := Iff.rfl
@[simp] theorem setDout_inv (b : Block) (s : State) : (setDout b s).Inv ↔ s.Inv := Iff.rfl
@[simp] theorem wipeKey_inv (s : State) : (wipeKey s).Inv ↔ s.Inv := Iff.rfl
@[simp] theorem setReply_inv (r : Reply) (s : State) : (setReply r s).Inv ↔ s.Inv := Iff.rfl
@[simp] theorem setPending_inv (es : List HostEvent) (s : State) : (setPending es s).Inv ↔ s.Inv := Iff.rfl
@[simp] theorem storeKey_inv (i : Nat) (w : Word) (s : State) : (storeKey i w s).Inv ↔ s.Inv := Iff.rfl
@[simp] theorem storeDin_inv (i : Nat) (w : Word) (s : State) : (storeDin i w s).Inv ↔ s.Inv := Iff.rfl

@[simp] theorem length_storeIv_ivbuf (i : Nat) (w : Word) (s : State) :
    (storeIv i w s).ivbuf.length = s.ivbuf.length := by
  rw [storeIv_ivbuf]
  split
  · exact length_listSetWord _ _ _
  · rfl

@[simp] theorem storeIv_inv (i : Nat) (w : Word) (s : State) : (storeIv i w s).Inv ↔ s.Inv := by
  simp only [State.Inv, State.WidthsOk, length_storeIv_ivbuf]
  exact Iff.rfl

@[simp] theorem storeWindow_inv (off : Nat) (w : Word) (s : State) : (storeWindow off w s).Inv ↔ s.Inv := by
  obtain ⟨i, h⟩ | ⟨i, h⟩ | ⟨i, h⟩ | h := storeWindow_cases off w s <;> simp [h]

theorem resetRegisters_inv (r : Reply) {s : State} (hs : s.Inv) : (resetRegisters r s).Inv := by
  obtain ⟨⟨hbuild, -, -⟩, -⟩ := hs
  exact resetOf_inv hbuild

/-! ## The commands that write OFB or schedule state keep the invariant -/

/-- A register of `n` bytes and then zeros is zero from byte `n` on: the form of (I4). -/
theorem drop_append_zeroList {x : List Byte} {n : Nat} (h : x.length = n) (m : Nat) :
    (x ++ zeroList m).drop n = zeroList ((x ++ zeroList m).length - n) := by
  simp [List.drop_left' h, h]

/-- Ending the session restores (I2), (I3) and (I4) from any session; (I1) is the schedule's. -/
theorem endSession_inv {s : State} (hw : s.WidthsOk) (hk : s.NoKeyNoSchedule) : (endSession s).Inv := by
  obtain ⟨hbuild, hiv, -⟩ := hw
  refine ⟨⟨hbuild, hiv, length_zeroList _⟩, hk, fun hsession => absurd rfl hsession, fun _ => ⟨rfl, rfl⟩, ?_⟩
  simp [State.DeadBytesZero, zeroList]

theorem ivLengthOk_iff (len zmax : Nat) :
    ivLengthOk len zmax = true ↔ len ≠ 0 ∧ len % 16 = 0 ∧ len ≤ 16 * zmax := by
  simp [ivLengthOk, and_assoc]

/-- A legal IV fills its blocks of the register, and the rest of the register is zero. -/
theorem startSession_inv {s : State} {len : Nat} (hs : s.Inv) (hk : s.kv = true)
    (hlen : ivLengthOk len s.build.zmax = true) :
    (startSession (sliceList s.ivbuf 0 len ++ zeroList (16 * s.build.zmax - len)) (len / 16) s).Inv := by
  obtain ⟨⟨hbuild, hiv, -⟩, hsched, -, -, -⟩ := hs
  obtain ⟨hpos, hblocks, hmax⟩ := (ivLengthOk_iff _ _).mp hlen
  have hslice : (sliceList s.ivbuf 0 len).length = 16 * (len / 16) := by
    rw [length_sliceList]; omega
  refine ⟨⟨hbuild, hiv, ?_⟩, hsched, fun _ => ⟨hk, ?_⟩, by simp, drop_append_zeroList hslice _⟩
  · rw [startSession_ofbreg, List.length_append, hslice, length_zeroList]
    simp only [startSession_build]
    omega
  · simp only [startSession_ofbz, startSession_build]
    omega

/-- The shift drops one block and appends one, so the live part stays `16 × OFBZ` bytes. -/
theorem setOfbReg_shiftedRegister_inv {s : State} (hs : s.Inv) (hr : s.ofbst = .running) :
    (setOfbReg (shiftedRegister s) s).Inv := by
  obtain ⟨⟨hbuild, hiv, hreg⟩, hsched, hsession, -, -⟩ := hs
  have hne : s.ofbst ≠ .uninit := by simp [hr]
  obtain ⟨-, hmin, hmax⟩ := hsession hne
  have hlive : (sliceList s.ofbreg 16 (16 * s.ofbz - 16) ++ (gamma s).toList).length = 16 * s.ofbz := by
    rw [List.length_append, length_sliceList, Vector.length_toList]
    omega
  refine ⟨⟨hbuild, hiv, ?_⟩, hsched, hsession, fun h => absurd h hne, drop_append_zeroList hlive _⟩
  rw [setOfbReg_ofbreg, shiftedRegister, List.length_append, hlive, length_zeroList]
  simp only [setOfbReg_build]
  omega

theorem markTailDone_inv {s : State} (hs : s.Inv) (hr : s.ofbst = .running) : (markTailDone s).Inv := by
  obtain ⟨hw, hsched, hsession, -, hdead⟩ := hs
  exact ⟨hw, hsched, fun _ => hsession (by simp [hr]), by simp, hdead⟩

theorem CommandEffect.inv {s t : State} {i : Instr} (h : CommandEffect s i t) (hs : s.Inv) : t.Inv := by
  have hw : s.WidthsOk := hs.1
  cases h with
  | nothing => simpa using hs
  | error => simpa using hs
  | keySizeError => simpa using hs
  | block => simpa using hs
  | newSchedule => exact (setErr_inv _ _).mpr (endSession_inv hw (by simp))
  | cleared => exact (setErr_inv _ _).mpr (endSession_inv hw fun _ => rfl)
  | sessionStarted hk hlen => exact (setErr_inv _ _).mpr (startSession_inv hs hk hlen)
  | fullBlock _ hr => simpa using setOfbReg_shiftedRegister_inv hs hr
  | tail _ hr => simpa using markTailDone_inv hs hr

theorem EventEffect.inv {s t : State} {e : HostEvent} (h : EventEffect s e t) (hs : s.Inv) : t.Inv := by
  cases h with
  | reset => exact resetRegisters_inv _ hs
  | resetDuringCommand => exact resetRegisters_inv _ hs
  | busFault => simpa using hs
  | read => simpa using hs
  | store => simpa using hs
  | illegal => simpa using hs
  | command _ ht => exact ht.inv ((setReply_inv _ _).mpr hs)

/-- Settles O20: a step either does nothing or has the effect of one host event, and every event keeps the
invariant. -/
theorem stepKeepsTheInvariant : Obligations.StepKeepsTheInvariant := by
  unfold Obligations.StepKeepsTheInvariant
  intro s t hs h
  obtain ⟨-, rfl⟩ | ⟨e, rest, -, he⟩ := step_effect h
  · exact hs
  · exact he.inv ((setPending_inv _ _).mpr hs)

/-! ## The invariants in every reachable state (R34) -/

theorem Reachable.inv {b : Build} {s : State} (hb : b.WellFormed) (h : Reachable b s) : s.build = b ∧ s.Inv := by
  induction h with
  | reset events => exact ⟨rfl, (setPending_inv _ _).mpr (resetOf_inv hb)⟩
  | step _ ht ih =>
    obtain ⟨hbuild, hinv⟩ := ih
    exact ⟨(stepKeepsTheBuild _ _ ht).trans hbuild, stepKeepsTheInvariant _ _ hinv ht⟩

theorem byteAt_roundKey_replicate_zeros (i j : Nat) :
    byteAt (roundKey (Vector.replicate 10 (zeros 16)) i) j = 0 := by
  have hkey : roundKey (Vector.replicate 10 (zeros 16)) i = zeros 16 := by
    by_cases hi : i < 10 <;> simp [roundKey, hi]
  rw [hkey, byteAt_zeros]

/-- (I4) byte by byte. -/
theorem State.DeadBytesZero.listByte_eq_zero {s : State} (h : s.DeadBytesZero) {j : Nat} (hj : 16 * s.ofbz ≤ j) :
    listByte s.ofbreg j = 0 := by
  have hshift : listByte (s.ofbreg.drop (16 * s.ofbz)) (j - 16 * s.ofbz) = listByte s.ofbreg j := by
    simp [listByte, Nat.add_sub_cancel' hj]
  rw [← hshift, h, listByte_zeroList]

/-- (I5): the code 3 never occurs (R25). -/
theorem ofbStateCode_ne_three (o : OfbState) : ofbStateCode o ≠ 3 := by
  cases o <;> decide

/-- Settles O21: (I1) to (I4) are the invariant of a reachable state, and (I5) holds of every `OFBST`. -/
theorem reachableStatesSatisfyI1ToI5 : Obligations.ReachableStatesSatisfyI1ToI5 := by
  unfold Obligations.ReachableStatesSatisfyI1ToI5
  intro b s hb h
  obtain ⟨rfl, -, hsched, hsession, hnone, hdead⟩ := h.inv hb
  refine ⟨fun hkv i j => ?_, hsession, hnone, fun j hj => hdead.listByte_eq_zero hj, ofbStateCode_ne_three _⟩
  rw [hsched hkv, byteAt_roundKey_replicate_zeros]

/-! ## What a command may write: its inputs, the schedule, `OFBST` (R18 to R22, R25) -/

/-- Settles O24: the frame of every effect a command can have. -/
theorem commandsKeepTheirInputs : Obligations.CommandsKeepTheirInputs := by
  unfold Obligations.CommandsKeepTheirInputs
  exact fun _ _ _ h => (exec_effect h).frame

/-- The only commands that write `RK` or `KV` are a successful `KEYEXP` and `KEYCLR`. -/
theorem CommandEffect.schedule {s t : State} {i : Instr} (h : CommandEffect s i t) :
    (t.rk = s.rk ∧ t.kv = s.kv) ∨ (i = .keyexp 32 ∧ t.err = .ok) ∨ i = .keyclr := by
  cases h with
  | newSchedule hlen => exact Or.inr (Or.inl ⟨congrArg Instr.keyexp (BitVec.eq_of_toNat_eq hlen), rfl⟩)
  | cleared => exact Or.inr (Or.inr rfl)
  | nothing => exact Or.inl ⟨rfl, rfl⟩
  | error => exact Or.inl ⟨rfl, rfl⟩
  | keySizeError => exact Or.inl ⟨rfl, rfl⟩
  | block => exact Or.inl ⟨rfl, rfl⟩
  | sessionStarted => exact Or.inl ⟨rfl, rfl⟩
  | fullBlock => exact Or.inl ⟨rfl, rfl⟩
  | tail => exact Or.inl ⟨rfl, rfl⟩

theorem storeWindow_schedule (off : Nat) (w : Word) (s : State) :
    (storeWindow off w s).rk = s.rk ∧ (storeWindow off w s).kv = s.kv := by
  obtain ⟨i, h⟩ | ⟨i, h⟩ | ⟨i, h⟩ | h := storeWindow_cases off w s <;> simp [h]

/-- The only events that write `RK` or `KV` are those two commands and reset. -/
theorem EventEffect.schedule {s t : State} {e : HostEvent} (h : EventEffect s e t) :
    (t.rk = s.rk ∧ t.kv = s.kv) ∨
      (∃ w, e = .access (.write 4 0x000 w) ∧
        ((decodeWord w = .ok (.keyexp 32) ∧ t.err = .ok) ∨ decodeWord w = .ok .keyclr)) ∨
      e = .reset ∨ ∃ w, e = .resetDuringCommand w := by
  cases h with
  | reset => exact Or.inr (Or.inr (Or.inl rfl))
  | resetDuringCommand w => exact Or.inr (Or.inr (Or.inr ⟨w, rfl⟩))
  | busFault => exact Or.inl ⟨rfl, rfl⟩
  | read => exact Or.inl ⟨rfl, rfl⟩
  | store => exact Or.inl (storeWindow_schedule _ _ _)
  | illegal => exact Or.inl ⟨rfl, rfl⟩
  | @command w _ _ hd ht =>
    obtain hkept | ⟨rfl, herr⟩ | rfl := ht.schedule
    · exact Or.inl hkept
    · exact Or.inr (Or.inl ⟨w, rfl, Or.inl ⟨hd, herr⟩⟩)
    · exact Or.inr (Or.inl ⟨w, rfl, Or.inr hd⟩)

/-- Settles O25: a step that changes the schedule took an event, and it is one of those that write it. -/
theorem scheduleChangesOnlyByKeyCommandsAndReset : Obligations.ScheduleChangesOnlyByKeyCommandsAndReset := by
  unfold Obligations.ScheduleChangesOnlyByKeyCommandsAndReset
  intro s t h hchange
  obtain ⟨-, rfl⟩ | ⟨e, rest, hp, he⟩ := step_effect h
  · simp at hchange
  obtain ⟨hrk, hkv⟩ | ⟨w, rfl, hw⟩ | rfl | ⟨w, rfl⟩ := he.schedule
  · simp [hrk, hkv] at hchange
  · exact Or.inl ⟨w, rest, hp, hw⟩
  · exact Or.inr (Or.inl ⟨rest, hp⟩)
  · exact Or.inr (Or.inr ⟨w, rest, hp⟩)

/-- Settles O29: the table of R25, read off each effect a command can have. -/
theorem ofbStateTransitions : Obligations.OfbStateTransitions := by
  unfold Obligations.OfbStateTransitions
  intro i s t h
  cases exec_effect h with
  | nothing hi =>
    obtain rfl | ⟨len, rfl, hlen, -, hr⟩ := hi
    · simp
    · simp [hr, hlen]
  | error hc => simp [hc]
  | keySizeError => simp
  | newSchedule => simp
  | cleared => simp
  | block b hi =>
    obtain ⟨_, rfl⟩ | ⟨_, rfl⟩ | rfl | rfl | rfl | rfl | rfl | rfl | ⟨_, rfl⟩ | ⟨_, rfl⟩ := hi <;> simp
  | sessionStarted => simp
  | fullBlock _ hr hlen => simp [hr, hlen]
  | tail _ hr hmin hmax =>
    simp [hr]
    omega

/-! ## Who reads `KEY` (R17, R33)

`withKey k` replaces `KEY` alone. An operation commutes with it, keeping `k` or putting in a `KEY` of its own, exactly
when `KEY` reaches nothing else. -/

/-- The state with another `KEY`. -/
def withKey (k : Key) (s : State) : State := { s with key := k }

/-- The outcome with its next state, if it has one, changed by `f`. -/
def mapNext (f : State → State) : Result → Result
  | .next s => .next (f s)
  | .fault r => .fault r
  | .refused r => .refused r

theorem succeed_withKey (k : Key) (s : State) : succeed (withKey k s) = mapNext (withKey k) (succeed s) := rfl

theorem deliver_withKey (b : Block) (k : Key) (s : State) :
    deliver b (withKey k s) = mapNext (withKey k) (deliver b s) := rfl

theorem blockCommand_withKey (len : Byte) (b : Block) (k : Key) (s : State) :
    blockCommand len b (withKey k s) = mapNext (withKey k) (blockCommand len b s) := by
  simp only [blockCommand, apply_ite (mapNext _)]
  rfl

theorem execOfbinit_withKey (len : Byte) (k : Key) (s : State) :
    execOfbinit len (withKey k s) = mapNext (withKey k) (execOfbinit len s) := by
  simp only [execOfbinit, apply_ite (mapNext _)]
  rfl

theorem execOfb_withKey (len : Byte) (k : Key) (s : State) :
    execOfb len (withKey k s) = mapNext (withKey k) (execOfb len s) := by
  simp only [execOfb, apply_ite (mapNext _)]
  rfl

theorem execGfmul_withKey (idx : Byte) (k : Key) (s : State) :
    execGfmul idx (withKey k s) = mapNext (withKey k) (execGfmul idx s) := by
  simp only [execGfmul, apply_ite (mapNext _)]
  rfl

theorem execRcon_withKey (idx : Byte) (k : Key) (s : State) :
    execRcon idx (withKey k s) = mapNext (withKey k) (execRcon idx s) := by
  simp only [execRcon, apply_ite (mapNext _)]
  rfl

/-- A `KEYEXP` with a size error wipes whatever `KEY` held. -/
theorem execKeyexp_withKey {len : Byte} (hlen : len.toNat ≠ 32) (k : Key) (s : State) :
    execKeyexp len (withKey k s) = mapNext (withKey (zeros 32)) (execKeyexp len s) := by
  simp only [execKeyexp, if_pos hlen]
  rfl

/-- Every command but the one that expands `KEY` commutes with replacing it; the two that wipe `KEY` forget it. -/
theorem exec_withKey {i : Instr} (hi : i ≠ .keyexp 32) (k : Key) (s : State) :
    ∃ k', exec i (withKey k s) = mapNext (withKey k') (exec i s) := by
  cases i with
  | keyexp len =>
    have hlen : len.toNat ≠ 32 := fun h => hi (congrArg Instr.keyexp (BitVec.eq_of_toNat_eq h))
    exact ⟨_, execKeyexp_withKey hlen k s⟩
  | keyclr => exact ⟨zeros 32, rfl⟩
  | nop => exact ⟨k, succeed_withKey k s⟩
  | enc len => exact ⟨k, blockCommand_withKey len _ k s⟩
  | dec len => exact ⟨k, blockCommand_withKey len _ k s⟩
  | ofbinit len => exact ⟨k, execOfbinit_withKey len k s⟩
  | ofb len => exact ⟨k, execOfb_withKey len k s⟩
  | sub => exact ⟨k, deliver_withKey _ k s⟩
  | subi => exact ⟨k, deliver_withKey _ k s⟩
  | lt => exact ⟨k, deliver_withKey _ k s⟩
  | lti => exact ⟨k, deliver_withKey _ k s⟩
  | rst => exact ⟨k, deliver_withKey _ k s⟩
  | rsti => exact ⟨k, deliver_withKey _ k s⟩
  | gfmul idx => exact ⟨k, execGfmul_withKey idx k s⟩
  | rcon idx => exact ⟨k, execRcon_withKey idx k s⟩

theorem execute_withKey {w : Word} (hw : decodeWord w ≠ .ok (.keyexp 32)) (k : Key) (s : State) :
    ∃ k', execute w (withKey k s) = mapNext (withKey k') (execute w s) := by
  unfold execute
  split
  · next i hd => exact exec_withKey (fun hi => hw (hi ▸ hd)) k s
  · exact ⟨k, rfl⟩

/-- A register write puts its lanes into `KEY`, or leaves `KEY` alone. -/
theorem storeWindow_withKey (off : Nat) (w : Word) (k : Key) (s : State) :
    ∃ k', storeWindow off w (withKey k s) = withKey k' (storeWindow off w s) := by
  unfold storeWindow
  split
  · exact ⟨setWord k (off - 0x020) w, rfl⟩
  · exact ⟨k, by simp only [apply_ite (withKey k)]; rfl⟩

theorem busWrite_withKey {off : Nat} {w : Word} (hw : off = 0x000 → decodeWord w ≠ .ok (.keyexp 32)) (k : Key)
    (s : State) : ∃ k', busWrite off w (withKey k s) = mapNext (withKey k') (busWrite off w s) := by
  unfold busWrite
  split
  · next hcmd => exact execute_withKey (hw hcmd) k (setReply .done s)
  · obtain ⟨k', hk'⟩ := storeWindow_withKey off w k (setReply .done s)
    exact ⟨k', congrArg Host.Outcome.next hk'⟩

theorem accepted_write_width {size off : Nat} {w : Word} (h : accepted (.write size off w) = true) : size = 4 := by
  simp only [accepted, Access.width, Bool.and_eq_true, beq_iff_eq] at h
  exact h.1

theorem performAccess_withKey {a : Access}
    (ha : ∀ w, a = .write 4 0x000 w → decodeWord w ≠ .ok (.keyexp 32)) (k : Key) (s : State) :
    ∃ k', performAccess a (withKey k s) = mapNext (withKey k') (performAccess a s) := by
  unfold performAccess
  split
  · exact ⟨k, rfl⟩
  split
  · exact ⟨k, rfl⟩
  next hacc =>
  cases a with
  | read size off => exact ⟨k, rfl⟩
  | write size off w =>
    obtain rfl : size = 4 := accepted_write_width (by simpa using hacc)
    exact busWrite_withKey (fun hoff => ha w (hoff ▸ rfl)) k s

theorem perform_withKey {e : HostEvent}
    (he : ∀ w, e = .access (.write 4 0x000 w) → decodeWord w ≠ .ok (.keyexp 32)) (k : Key) (s : State) :
    ∃ k', perform e (withKey k s) = mapNext (withKey k') (perform e s) := by
  cases e with
  | access a => exact performAccess_withKey (fun w hw => he w (congrArg HostEvent.access hw)) k s
  | reset => exact ⟨zeros 32, rfl⟩
  | resetDuringCommand w => exact ⟨zeros 32, rfl⟩

theorem step_withKey {s : State}
    (hs : ∀ w rest, s.pending = .access (.write 4 0x000 w) :: rest → decodeWord w ≠ .ok (.keyexp 32)) (k : Key) :
    ∃ k', step (withKey k s) = mapNext (withKey k') (step s) := by
  have hpending : (withKey k s).pending = s.pending := rfl
  unfold step
  rw [hpending]
  split
  · exact ⟨k, rfl⟩
  · next e rest hp => exact perform_withKey (fun w hw => hs w rest (hw ▸ hp)) k (setPending rest s)

/-- Settles O15: every event but the one command that reads `KEY` commutes with replacing `KEY`. -/
theorem keyReachesNothingButKeyexp : Obligations.KeyReachesNothingButKeyexp := by
  unfold Obligations.KeyReachesNothingButKeyexp
  intro s t k hs h
  obtain ⟨k', hk'⟩ := step_withKey hs k
  rw [h] at hk'
  exact ⟨k', hk'⟩

/-- Settles O14: `busRead` is made of `STATUS`, `INFO`, `DIN`, `DOUT`, `IVBUF` and `OFBREG`, and a byte of the window
is a lane of what it reads. -/
theorem noOffsetShowsKeyMaterial : Obligations.NoOffsetShowsKeyMaterial := by
  unfold Obligations.NoOffsetShowsKeyMaterial
  intro s k r off
  have hread : ∀ o, busRead o { s with key := k, rk := r } = busRead o s := fun _ => rfl
  exact ⟨hread off, congrArg (lane · (off % 4)) (hread (off - off % 4))⟩

/-! ## The words `STATUS` and `INFO` (R27, R28) and the reset values (R35) -/

/-- `STATUS` bit by bit: the fields of R27 from bit 0 up, and 0 between and above them. -/
theorem statusWord_getLsbD (s : State) (i : Nat) :
    (statusWord s).getLsbD i =
      if i < 8 then (errorCode s.err).getLsbD i
      else if i < 9 then s.kv
      else if i < 11 then (ofbStateCode s.ofbst).getLsbD (i - 9)
      else if i < 16 then false
      else if i < 24 then (BitVec.ofNat 8 s.ofbz).getLsbD (i - 16)
      else false := by
  simp only [statusWord, BitVec.getLsbD_or, BitVec.getLsbD_setWidth, BitVec.getLsbD_shiftLeft, BitVec.getLsbD_ofBool]
  grind

/-- A field of a word is `x` when its bits are those of `x`. -/
theorem extractLsb'_eq_of_getLsbD {w : Word} {start n : Nat} {x : BitVec n}
    (h : ∀ i, i < n → w.getLsbD (start + i) = x.getLsbD i) : w.extractLsb' start n = x :=
  BitVec.eq_of_getLsbD_eq fun i hi => by simp [hi, h i hi]

theorem statusWord_err (s : State) : (statusWord s).extractLsb' 0 8 = errorCode s.err :=
  extractLsb'_eq_of_getLsbD fun i hi => by simp [statusWord_getLsbD, hi]

theorem statusWord_ofbst (s : State) : (statusWord s).extractLsb' 9 2 = ofbStateCode s.ofbst :=
  extractLsb'_eq_of_getLsbD fun i hi => by rw [statusWord_getLsbD]; grind

theorem statusWord_ofbz (s : State) : (statusWord s).extractLsb' 16 8 = BitVec.ofNat 8 s.ofbz :=
  extractLsb'_eq_of_getLsbD fun i hi => by rw [statusWord_getLsbD]; grind

theorem statusWord_reserved (s : State) :
    (statusWord s).extractLsb' 11 5 = 0 ∧ (statusWord s).extractLsb' 24 8 = 0 :=
  ⟨extractLsb'_eq_of_getLsbD fun i hi => by rw [statusWord_getLsbD]; grind,
    extractLsb'_eq_of_getLsbD fun i hi => by rw [statusWord_getLsbD]; grind⟩

/-- Settles O12: each field is a range of the bits of `STATUS`, and no `OFBST` has the code 3. -/
theorem statusWordShowsItsFields : Obligations.StatusWordShowsItsFields := by
  unfold Obligations.StatusWordShowsItsFields
  refine ⟨rfl, rfl, rfl, fun s => ?_⟩
  obtain ⟨hlow, hhigh⟩ := statusWord_reserved s
  exact ⟨rfl, statusWord_err s, statusWord_getLsbD s 8, statusWord_ofbst s,
    statusWord_ofbst s ▸ ofbStateCode_ne_three _, hlow, statusWord_ofbz s, hhigh⟩

/-- `INFO` as its four bytes, lowest lane first (R28). -/
theorem lane_infoWord (b : Build) (k : Nat) (h : k < 4) :
    lane (infoWord b) k =
      if k = 0 then 0x01 else if k = 1 then BitVec.ofNat 8 b.zmax else if k = 2 then 0x0A else 0x10 :=
  lane_packWord _ _ _ _ k h

/-- Settles O13: the four fields are the four lanes of `INFO`. -/
theorem infoWordShowsTheBuild : Obligations.InfoWordShowsTheBuild := by
  unfold Obligations.InfoWordShowsTheBuild
  exact fun s => ⟨rfl, lane_infoWord s.build 0 (by decide), lane_infoWord s.build 1 (by decide),
    lane_infoWord s.build 2 (by decide), lane_infoWord s.build 3 (by decide)⟩

theorem statusWord_resetOf (b : Build) : statusWord (State.resetOf b) = 0 := by
  simp [statusWord, State.resetOf, errorCode, ofbStateCode]

/-- Settles O17: the registers of the table are zero strings, whose bytes are 0, and the flags of `STATUS` are 0. -/
theorem resetValues : Obligations.ResetValues := by
  unfold Obligations.ResetValues
  exact ⟨rfl, fun b => ⟨rfl, byteAt_zeros 32, byteAt_roundKey_replicate_zeros, rfl, byteAt_zeros 16, byteAt_zeros 16,
    rfl, rfl, rfl, rfl, rfl, statusWord_resetOf b, rfl⟩⟩

end Sys2Proof.Machine
end

section
/-!
The memory family (spec/20_memory.md): what a step does with each kind of access, what each region of the window reads
as and stores, which bytes of the window a command changes, and the eight key writes of `ldkey`.
-/

namespace Sys2Proof.Machine

/-! ## One access, by kind (R40, R42 to R44, R114) -/

theorem accepted_iff (a : Access) : accepted a = true ↔ a.width = 4 ∧ a.offset % 4 = 0 := by
  simp [accepted]

theorem performAccess_of_outside {a : Access} (h : windowSize ≤ a.offset) (s : State) :
    performAccess a s = .fault (.outsideWindow a.offset) := by
  simp only [performAccess, if_pos h]

theorem performAccess_of_not_accepted {a : Access} (hin : a.offset < windowSize) (h : accepted a = false) (s : State) :
    performAccess a s = .next (setReply (.busFault a.offset) s) := by
  simp only [performAccess, if_neg (Nat.not_le.mpr hin), if_pos h]

theorem performAccess_read {off : Nat} (hin : off < windowSize) (hal : off % 4 = 0) (s : State) :
    performAccess (.read 4 off) s = .next (setReply (.data (busRead off s)) s) := by
  have hacc : accepted (.read 4 off) = true := (accepted_iff _).mpr ⟨rfl, hal⟩
  simp [performAccess, Access.offset, hacc, Nat.not_le.mpr hin]

theorem performAccess_write {off : Nat} (hin : off < windowSize) (hal : off % 4 = 0) (w : Word) (s : State) :
    performAccess (.write 4 off w) s = busWrite off w s := by
  have hacc : accepted (.write 4 off w) = true := (accepted_iff _).mpr ⟨rfl, hal⟩
  simp [performAccess, Access.offset, hacc, Nat.not_le.mpr hin]

theorem busWrite_of_ne_cmd {off : Nat} (h : off ≠ 0x000) (w : Word) (s : State) :
    busWrite off w s = .next (storeWindow off w (setReply .done s)) := by
  rw [busWrite, if_neg h]

theorem step_of_pending_nil {s : State} (hp : s.pending = []) : step s = .next s := by
  simp only [step, hp]

theorem step_of_pending_cons {s : State} {e : HostEvent} {rest : List HostEvent} (hp : s.pending = e :: rest) :
    step s = perform e (setPending rest s) := by
  simp only [step, hp]

theorem step_access {s : State} {a : Access} {rest : List HostEvent} (hp : s.pending = .access a :: rest) :
    step s = performAccess a (setPending rest s) :=
  step_of_pending_cons hp

/-- Settles O7: R40 accepts exactly the aligned 32-bit accesses, and the others are answered by R114. -/
theorem unacceptedAccessOnlyGetsBusFault : Obligations.UnacceptedAccessOnlyGetsBusFault := by
  unfold Obligations.UnacceptedAccessOnlyGetsBusFault
  intro s a rest hp hin hnot
  have hacc : accepted a = false := Bool.eq_false_iff.mpr fun h => hnot ((accepted_iff a).mp h)
  rw [step_access hp, performAccess_of_not_accepted hin hacc]
  rfl

theorem step_read {s : State} {off : Nat} {rest : List HostEvent} (hp : s.pending = .access (.read 4 off) :: rest)
    (hin : off < windowSize) (hal : off % 4 = 0) :
    step s = .next { s with pending := rest, reply := .data (busRead off s) } := by
  rw [step_access hp, performAccess_read hin hal]
  rfl

/-- Settles O8: the step of a read is the read. -/
theorem readAnswersWordAndChangesNothing : Obligations.ReadAnswersWordAndChangesNothing := by
  unfold Obligations.ReadAnswersWordAndChangesNothing
  exact fun _ _ _ hp hin hal => step_read hp hin hal

/-- The state in which a write that has completed normally stores its lanes. -/
def afterWrite (rest : List HostEvent) (s : State) : State := { s with pending := rest, reply := .done }

theorem step_store {s : State} {off : Nat} {w : Word} {rest : List HostEvent}
    (hp : s.pending = .access (.write 4 off w) :: rest) (h0 : off ≠ 0x000) (hin : off < windowSize)
    (hal : off % 4 = 0) : step s = .next (storeWindow off w (afterWrite rest s)) := by
  rw [step_access hp, performAccess_write hin hal, busWrite_of_ne_cmd h0]
  rfl

/-! ## A step stops only outside the window (R36, R112, R114) -/

/-- A choice between two outcomes is a next state when both are. -/
theorem exists_next_ite {c : Prop} [Decidable c] {r r' : Result} (h : ∃ t, r = .next t) (h' : ∃ t, r' = .next t) :
    ∃ t, (if c then r else r') = .next t := by
  split
  · exact h
  · exact h'

theorem exists_next_raiseError (c : ErrorCode) (s : State) : ∃ t, raiseError c s = .next t := ⟨_, rfl⟩

theorem exists_next_succeed (s : State) : ∃ t, succeed s = .next t := ⟨_, rfl⟩

theorem exists_next_deliver (b : Block) (s : State) : ∃ t, deliver b s = .next t := ⟨_, rfl⟩

theorem exists_next_blockCommand (len : Byte) (b : Block) (s : State) : ∃ t, blockCommand len b s = .next t :=
  exists_next_ite (exists_next_raiseError _ s)
    (exists_next_ite (exists_next_raiseError _ s) (exists_next_deliver b s))

/-- Every command answers a next state, a failed one included. -/
theorem exists_next_exec (i : Instr) (s : State) : ∃ t, exec i s = .next t := by
  cases i with
  | nop => exact exists_next_succeed s
  | keyexp len => exact exists_next_ite (exists_next_raiseError _ _) (exists_next_succeed _)
  | keyclr => exact exists_next_succeed _
  | enc len => exact exists_next_blockCommand len _ s
  | dec len => exact exists_next_blockCommand len _ s
  | ofbinit len =>
    exact exists_next_ite (exists_next_raiseError _ s)
      (exists_next_ite (exists_next_raiseError _ s) (exists_next_succeed _))
  | ofb len =>
    exact exists_next_ite (exists_next_raiseError _ s) (exists_next_ite (exists_next_raiseError _ s)
      (exists_next_ite (exists_next_raiseError _ s) (exists_next_ite (exists_next_deliver _ _)
        (exists_next_ite (exists_next_succeed s) (exists_next_deliver _ _)))))
  | sub => exact exists_next_deliver _ s
  | subi => exact exists_next_deliver _ s
  | lt => exact exists_next_deliver _ s
  | lti => exact exists_next_deliver _ s
  | rst => exact exists_next_deliver _ s
  | rsti => exact exists_next_deliver _ s
  | gfmul idx => exact exists_next_ite (exists_next_deliver _ s) (exists_next_raiseError _ s)
  | rcon idx => exact exists_next_ite (exists_next_deliver _ s) (exists_next_raiseError _ s)

theorem exists_next_execute (w : Word) (s : State) : ∃ t, execute w s = .next t := by
  unfold execute
  split
  · next i _ => exact exists_next_exec i s
  · exact exists_next_raiseError _ s

theorem exists_next_performAccess {a : Access} (hin : a.offset < windowSize) (s : State) :
    ∃ t, performAccess a s = .next t := by
  simp only [performAccess, if_neg (Nat.not_le.mpr hin)]
  refine exists_next_ite ⟨_, rfl⟩ ?_
  cases a with
  | read size off => exact ⟨_, rfl⟩
  | write size off w => exact exists_next_ite (exists_next_execute w _) ⟨_, rfl⟩

theorem exists_next_perform {e : HostEvent} (he : e.inWindow = true) (s : State) : ∃ t, perform e s = .next t := by
  cases e with
  | access a => exact exists_next_performAccess (of_decide_eq_true he) s
  | reset => exact ⟨_, rfl⟩
  | resetDuringCommand w => exact ⟨_, rfl⟩

/-- An event outside the window is an access to an offset the core does not have. -/
theorem HostEvent.eq_access_of_not_inWindow {e : HostEvent} (he : e.inWindow ≠ true) :
    ∃ a, e = .access a ∧ windowSize ≤ a.offset := by
  cases e with
  | access a => exact ⟨a, rfl, by simpa [HostEvent.inWindow] using he⟩
  | reset => exact absurd rfl he
  | resetDuringCommand w => exact absurd rfl he

/-- Settles O22: an event inside the window has a next state, and the others are the accesses that fault. -/
theorem stepStopsOnlyOutsideTheWindow : Obligations.StepStopsOnlyOutsideTheWindow := by
  unfold Obligations.StepStopsOnlyOutsideTheWindow
  intro s
  cases hp : s.pending with
  | nil => exact Or.inl ⟨⟨s, step_of_pending_nil hp⟩, by simp⟩
  | cons e rest =>
    by_cases he : e.inWindow = true
    · refine Or.inl ⟨step_of_pending_cons hp ▸ exists_next_perform he _, fun e' rest' h => ?_⟩
      obtain ⟨rfl, -⟩ := List.cons.inj h
      exact he
    · obtain ⟨a, rfl, hout⟩ := e.eq_access_of_not_inWindow he
      exact Or.inr ⟨a, rest, rfl, hout, (step_access hp).trans (performAccess_of_outside hout _)⟩

/-! ## What each region of the window reads as (R37, R38, R43) -/

theorem lane_wordAt {n k : Nat} (x : Bytes n) (i : Nat) (hk : k < 4) : lane (wordAt x i) k = byteAt x (i + k) := by
  rw [wordAt, lane_packWord _ _ _ _ _ hk]
  have : k = 0 ∨ k = 1 ∨ k = 2 ∨ k = 3 := by omega
  obtain rfl | rfl | rfl | rfl := this <;> rfl

theorem lane_listWordAt {k : Nat} (x : List Byte) (i : Nat) (hk : k < 4) :
    lane (listWordAt x i) k = listByte x (i + k) := by
  rw [listWordAt, lane_packWord _ _ _ _ _ hk]
  have : k = 0 ∨ k = 1 ∨ k = 2 ∨ k = 3 := by omega
  obtain rfl | rfl | rfl | rfl := this <;> rfl

@[simp] theorem lane_zero (k : Nat) : lane 0 k = 0 := by simp [lane]

theorem busRead_din {off : Nat} (h : 0x040 ≤ off) (h' : off ≤ 0x04C) (s : State) :
    busRead off s = wordAt s.din (off - 0x040) := by
  rw [busRead, if_neg (by omega), if_neg (by omega), if_pos ⟨h, h'⟩]

theorem busRead_dout {off : Nat} (h : 0x050 ≤ off) (h' : off ≤ 0x05C) (s : State) :
    busRead off s = wordAt s.dout (off - 0x050) := by
  rw [busRead, if_neg (by omega), if_neg (by omega), if_neg (by omega), if_pos ⟨h, h'⟩]

theorem busRead_ivbuf {off : Nat} (h : 0x100 ≤ off) (h' : off ≤ 0x1EC) (s : State) :
    busRead off s = if off - 0x100 < 16 * s.build.zmax then listWordAt s.ivbuf (off - 0x100) else 0 := by
  rw [busRead, if_neg (by omega), if_neg (by omega), if_neg (by omega), if_neg (by omega), if_pos ⟨h, h'⟩]

theorem busRead_ofbreg {off : Nat} (h : 0x200 ≤ off) (h' : off ≤ 0x2EC) (s : State) :
    busRead off s = if off - 0x200 < 16 * s.build.zmax then listWordAt s.ofbreg (off - 0x200) else 0 := by
  rw [busRead, if_neg (by omega), if_neg (by omega), if_neg (by omega), if_neg (by omega), if_neg (by omega),
    if_pos ⟨h, h'⟩]

theorem windowByte_status {off : Nat} (h : 0x004 ≤ off) (h' : off < 0x008) (s : State) :
    windowByte off s = lane (statusWord s) (off - 0x004) := by
  rw [windowByte, show off - off % 4 = 0x004 by omega, show off % 4 = off - 0x004 by omega]
  rfl

theorem windowByte_info {off : Nat} (h : 0x008 ≤ off) (h' : off < 0x00C) (s : State) :
    windowByte off s = lane (infoWord s.build) (off - 0x008) := by
  rw [windowByte, show off - off % 4 = 0x008 by omega, show off % 4 = off - 0x008 by omega]
  rfl

theorem windowByte_din {off : Nat} (h : 0x040 ≤ off) (h' : off < 0x050) (s : State) :
    windowByte off s = byteAt s.din (off - 0x040) := by
  rw [windowByte, busRead_din (by omega) (by omega), lane_wordAt _ _ (by omega)]
  congr 1
  omega

theorem windowByte_dout {off : Nat} (h : 0x050 ≤ off) (h' : off < 0x060) (s : State) :
    windowByte off s = byteAt s.dout (off - 0x050) := by
  rw [windowByte, busRead_dout (by omega) (by omega), lane_wordAt _ _ (by omega)]
  congr 1
  omega

/-- A byte of a register of `16·ZMAX` bytes through its word: the whole word is implemented or none of it. -/
theorem lane_implementedWord (x : List Byte) (z : Nat) {i k : Nat} (hi : i % 4 = 0) (hk : k < 4) :
    lane (if i < 16 * z then listWordAt x i else 0) k = if i + k < 16 * z then listByte x (i + k) else 0 := by
  by_cases h : i < 16 * z
  · rw [if_pos h, if_pos (by omega), lane_listWordAt _ _ hk]
  · rw [if_neg h, if_neg (by omega), lane_zero]

theorem windowByte_ivbuf {off : Nat} (h : 0x100 ≤ off) (h' : off < 0x1F0) (s : State) :
    windowByte off s = if off - 0x100 < 16 * s.build.zmax then listByte s.ivbuf (off - 0x100) else 0 := by
  rw [windowByte, busRead_ivbuf (by omega) (by omega), lane_implementedWord _ _ (by omega) (by omega),
    show off - off % 4 - 0x100 + off % 4 = off - 0x100 by omega]

theorem windowByte_ofbreg {off : Nat} (h : 0x200 ≤ off) (h' : off < 0x2F0) (s : State) :
    windowByte off s = if off - 0x200 < 16 * s.build.zmax then listByte s.ofbreg (off - 0x200) else 0 := by
  rw [windowByte, busRead_ofbreg (by omega) (by omega), lane_implementedWord _ _ (by omega) (by omega),
    show off - off % 4 - 0x200 + off % 4 = off - 0x200 by omega]

/-- `CMD`, `KEY` and the reserved offsets. -/
theorem windowByte_unreadable {off : Nat}
    (h : off < 0x004 ∨ (0x00C ≤ off ∧ off < 0x040) ∨ (0x060 ≤ off ∧ off < 0x100) ∨
      (0x1F0 ≤ off ∧ off < 0x200) ∨ 0x2F0 ≤ off) (s : State) : windowByte off s = 0 := by
  rw [windowByte, busRead, if_neg (by omega), if_neg (by omega), if_neg (by omega), if_neg (by omega),
    if_neg (by omega), if_neg (by omega), lane_zero]

/-- Settles O9: one lemma per region of R37, and with ZMAX at most 15 the implemented parts of `IVBUF` and `OFBREG`
end inside their regions. -/
theorem windowBytesShowTheMappedRegisters : Obligations.WindowBytesShowTheMappedRegisters := by
  unfold Obligations.WindowBytesShowTheMappedRegisters
  intro s off hz _
  refine ⟨fun h h' => windowByte_status h h' s, fun h h' => windowByte_info h h' s, fun h h' => windowByte_din h h' s,
    fun h h' => windowByte_dout h h' s, fun h h' => ?_, fun h h' => ?_, fun h => ?_⟩
  · rw [windowByte_ivbuf h (by omega), if_pos (by omega)]
  · rw [windowByte_ofbreg h (by omega), if_pos (by omega)]
  · by_cases hiv : 0x100 ≤ off ∧ off < 0x1F0
    · rw [windowByte_ivbuf hiv.1 hiv.2, if_neg (by omega)]
    by_cases hreg : 0x200 ≤ off ∧ off < 0x2F0
    · rw [windowByte_ofbreg hreg.1 hreg.2, if_neg (by omega)]
    · exact windowByte_unreadable (by omega) s

/-! ## Which bytes of the window a command changes (R45) -/

/-- The bytes that show no output of a command: those outside `STATUS`, `DOUT` and `OFBREG`. -/
theorem windowByte_eq_of_inputs_eq {s t : State} {off : Nat} (hbuild : t.build = s.build) (hdin : t.din = s.din)
    (hiv : t.ivbuf = s.ivbuf)
    (h : off < 0x004 ∨ (0x008 ≤ off ∧ off < 0x050) ∨ (0x060 ≤ off ∧ off < 0x200) ∨ 0x2F0 ≤ off) :
    windowByte off t = windowByte off s := by
  by_cases hinfo : 0x008 ≤ off ∧ off < 0x00C
  · rw [windowByte_info hinfo.1 hinfo.2, windowByte_info hinfo.1 hinfo.2, hbuild]
  by_cases hd : 0x040 ≤ off ∧ off < 0x050
  · rw [windowByte_din hd.1 hd.2, windowByte_din hd.1 hd.2, hdin]
  by_cases hi : 0x100 ≤ off ∧ off < 0x1F0
  · rw [windowByte_ivbuf hi.1 hi.2, windowByte_ivbuf hi.1 hi.2, hbuild, hiv]
  · rw [windowByte_unreadable (by omega), windowByte_unreadable (by omega)]

/-- A command that is neither a key command nor an OFB command writes `ERR` and `DOUT` alone. -/
theorem CommandEffect.eq_err_dout {s t : State} {i : Instr} (h : CommandEffect s i t)
    (hkeyexp : ∀ len, i ≠ .keyexp len) (hkeyclr : i ≠ .keyclr) (hofbinit : ∀ len, i ≠ .ofbinit len)
    (hofb : ∀ len, i ≠ .ofb len) : t = { s with err := t.err, dout := t.dout } := by
  cases h with
  | nothing => rfl
  | error => rfl
  | block => rfl
  | keySizeError => exact absurd rfl (hkeyexp _)
  | newSchedule => exact absurd rfl (hkeyexp _)
  | cleared => exact absurd rfl hkeyclr
  | sessionStarted => exact absurd rfl (hofbinit _)
  | fullBlock => exact absurd rfl (hofb _)
  | tail => exact absurd rfl (hofb _)

/-- `ERR` fills lane 0 of `STATUS` and no other. -/
theorem lane_statusWord_err_dout (s : State) (c : ErrorCode) (b : Block) {k : Nat} (hk : k ≠ 0) :
    lane (statusWord { s with err := c, dout := b }) k = lane (statusWord s) k := by
  apply BitVec.eq_of_getLsbD_eq
  intro i _
  have hi : ¬ 8 * k + i < 8 := by omega
  simp only [lane_getLsbD, statusWord_getLsbD, if_neg hi]

theorem windowByte_err_dout (s : State) (c : ErrorCode) (b : Block) {off : Nat} (herr : off ≠ 0x004)
    (hdout : off < 0x050 ∨ 0x060 ≤ off) : windowByte off { s with err := c, dout := b } = windowByte off s := by
  by_cases hst : 0x004 ≤ off ∧ off < 0x008
  · rw [windowByte_status hst.1 hst.2, windowByte_status hst.1 hst.2, lane_statusWord_err_dout s c b (by omega)]
  by_cases hreg : 0x200 ≤ off ∧ off < 0x2F0
  · rw [windowByte_ofbreg hreg.1 hreg.2, windowByte_ofbreg hreg.1 hreg.2]
  · exact windowByte_eq_of_inputs_eq rfl rfl rfl (by omega)

/-- Settles O30: no command writes what the other bytes show, and the plain commands write `ERR` and `DOUT` alone. -/
theorem commandsChangeOnlyTheirWindowBytes : Obligations.CommandsChangeOnlyTheirWindowBytes := by
  unfold Obligations.CommandsChangeOnlyTheirWindowBytes
  intro i s t off h
  refine ⟨fun hoff => ?_, fun hkeyexp hkeyclr hofbinit hofb herr hdout => ?_⟩
  · obtain ⟨hdin, hiv, hbuild, -, -⟩ := (exec_effect h).frame
    exact windowByte_eq_of_inputs_eq hbuild hdin hiv hoff
  · rw [(exec_effect h).eq_err_dout hkeyexp hkeyclr hofbinit hofb]
    exact windowByte_err_dout s _ _ herr hdout

/-! ## What a write stores (R38, R44, R48) -/

theorem listByte_set (x : List Byte) (i : Nat) (b : Byte) (j : Nat) (hi : i < x.length) :
    listByte (x.set i b) j = if i = j then b else listByte x j := by
  by_cases h : i = j
  · simp [listByte, ← h, hi]
  · simp [listByte, h]

theorem listByte_listSetWord {x : List Byte} {i : Nat} (h : i + 4 ≤ x.length) (w : Word) (j : Nat) :
    listByte (listSetWord x i w) j = if i ≤ j ∧ j < i + 4 then lane w (j - i) else listByte x j := by
  rw [listSetWord, listByte_set _ _ _ _ (by simp; omega), listByte_set _ _ _ _ (by simp; omega),
    listByte_set _ _ _ _ (by simp; omega), listByte_set _ _ _ _ (by omega)]
  by_cases hin : i ≤ j ∧ j < i + 4
  · obtain rfl | rfl | rfl | rfl : j = i ∨ j = i + 1 ∨ j = i + 2 ∨ j = i + 3 := by omega
    all_goals simp
  · rw [if_neg hin, if_neg (by omega), if_neg (by omega), if_neg (by omega), if_neg (by omega)]

theorem storeWindow_frame (off : Nat) (w : Word) (s : State) :
    storeWindow off w s =
      { s with key := (storeWindow off w s).key, din := (storeWindow off w s).din,
               ivbuf := (storeWindow off w s).ivbuf } := by
  obtain ⟨i, h⟩ | ⟨i, h⟩ | ⟨i, h⟩ | h := storeWindow_cases off w s <;> rw [h] <;> rfl

theorem length_storeWindow_ivbuf (off : Nat) (w : Word) (s : State) :
    (storeWindow off w s).ivbuf.length = s.ivbuf.length := by
  obtain ⟨i, h⟩ | ⟨i, h⟩ | ⟨i, h⟩ | h := storeWindow_cases off w s
  · rw [h, storeKey_ivbuf]
  · rw [h, storeDin_ivbuf]
  · rw [h, length_storeIv_ivbuf]
  · rw [h]

theorem storeWindow_eq_storeKey {off : Nat} (h : 0x020 ≤ off ∧ off ≤ 0x03C) (w : Word) (s : State) :
    storeWindow off w s = storeKey (off - 0x020) w s := by
  rw [storeWindow, if_pos h]

theorem storeWindow_eq_storeDin {off : Nat} (h : 0x040 ≤ off ∧ off ≤ 0x04C) (w : Word) (s : State) :
    storeWindow off w s = storeDin (off - 0x040) w s := by
  rw [storeWindow, if_neg (by omega), if_pos h]

theorem storeWindow_eq_storeIv {off : Nat} (h : 0x100 ≤ off ∧ off ≤ 0x1EC) (w : Word) (s : State) :
    storeWindow off w s = storeIv (off - 0x100) w s := by
  rw [storeWindow, if_neg (by omega), if_neg (by omega), if_pos h]

/-- Each of the three registers keeps its bytes under a write to any offset but its own. -/
theorem storeWindow_key_of_not {off : Nat} (h : ¬ (0x020 ≤ off ∧ off ≤ 0x03C)) (w : Word) (s : State) :
    (storeWindow off w s).key = s.key := by
  rw [storeWindow, if_neg h, apply_ite State.key, apply_ite State.key]
  simp

theorem storeWindow_din_of_not {off : Nat} (h : ¬ (0x040 ≤ off ∧ off ≤ 0x04C)) (w : Word) (s : State) :
    (storeWindow off w s).din = s.din := by
  rw [storeWindow, if_neg h, apply_ite State.din, apply_ite State.din]
  simp

theorem storeWindow_ivbuf_of_not {off : Nat} (h : ¬ (0x100 ≤ off ∧ off ≤ 0x1EC)) (w : Word) (s : State) :
    (storeWindow off w s).ivbuf = s.ivbuf := by
  rw [storeWindow, if_neg h, apply_ite State.ivbuf, apply_ite State.ivbuf]
  simp

/-- Byte by byte, `x'` is a register at window offset `base` after the write of `w` at `off`, and `x` before it. -/
abbrev StoresLanes (off : Nat) (w : Word) (base : Nat) (x x' : Nat → Byte) (j : Nat) : Prop :=
  x' j = if off ≤ base + j ∧ base + j < off + 4 then lane w (base + j - off) else x j

theorem storeWindow_key_storesLanes {off : Nat} (hal : off % 4 = 0) (w : Word) (s : State) {j : Nat} (hj : j < 32) :
    StoresLanes off w 0x020 (byteAt s.key) (byteAt (storeWindow off w s).key) j := by
  by_cases h : 0x020 ≤ off ∧ off ≤ 0x03C
  · rw [StoresLanes, storeWindow_eq_storeKey h, storeKey_key, byteAt_setWord, if_pos hj]
    exact if_congr (by omega) (congrArg (lane w) (by omega)) rfl
  · rw [StoresLanes, storeWindow_key_of_not h, if_neg (by omega)]

theorem storeWindow_din_storesLanes {off : Nat} (hal : off % 4 = 0) (w : Word) (s : State) {j : Nat} (hj : j < 16) :
    StoresLanes off w 0x040 (byteAt s.din) (byteAt (storeWindow off w s).din) j := by
  by_cases h : 0x040 ≤ off ∧ off ≤ 0x04C
  · rw [StoresLanes, storeWindow_eq_storeDin h, storeDin_din, byteAt_setWord, if_pos hj]
    exact if_congr (by omega) (congrArg (lane w) (by omega)) rfl
  · rw [StoresLanes, storeWindow_din_of_not h, if_neg (by omega)]

/-- An aligned word at an implemented byte of `IVBUF` is implemented whole. -/
theorem storeWindow_ivbuf_storesLanes {off : Nat} (hal : off % 4 = 0) (w : Word) {s : State}
    (hz : s.build.zmax ≤ 15) (hlen : s.ivbuf.length = 16 * s.build.zmax) {j : Nat} (hj : j < 16 * s.build.zmax) :
    StoresLanes off w 0x100 (listByte s.ivbuf) (listByte (storeWindow off w s).ivbuf) j := by
  by_cases h : 0x100 ≤ off ∧ off ≤ 0x1EC
  · rw [StoresLanes, storeWindow_eq_storeIv h, storeIv_ivbuf]
    by_cases himpl : off - 0x100 < 16 * s.build.zmax
    · rw [if_pos himpl, listByte_listSetWord (by omega)]
      exact if_congr (by omega) (congrArg (lane w) (by omega)) rfl
    · rw [if_neg himpl, if_neg (by omega)]
  · rw [StoresLanes, storeWindow_ivbuf_of_not h, if_neg (by omega)]

/-- Settles O10: the step stores the lanes; each of the three registers takes those that lie in it. -/
theorem windowWriteStoresItsLanes : Obligations.WindowWriteStoresItsLanes := by
  unfold Obligations.WindowWriteStoresItsLanes
  intro s off w rest hp h0 hin hal hz hlen
  exact ⟨_, step_store hp (Nat.pos_iff_ne_zero.mp h0) hin hal, storeWindow_frame off w (afterWrite rest s),
    length_storeWindow_ivbuf off w _, fun _ hj => storeWindow_key_storesLanes hal w (afterWrite rest s) hj,
    fun _ hj => storeWindow_din_storesLanes hal w (afterWrite rest s) hj,
    fun _ hj => storeWindow_ivbuf_storesLanes hal w (s := afterWrite rest s) hz hlen hj⟩

/-- Where the window reads back what it stores, the word read is the word written. -/
theorem busRead_storeWindow {off : Nat} (hal : off % 4 = 0) (w : Word) {s : State} (hz : s.build.zmax ≤ 15)
    (hlen : s.ivbuf.length = 16 * s.build.zmax)
    (hoff : (0x040 ≤ off ∧ off < 0x050) ∨ (0x100 ≤ off ∧ off < 0x100 + 16 * s.build.zmax)) :
    busRead off (storeWindow off w s) = w := by
  apply word_ext
  intro k hk
  obtain ⟨h, h'⟩ | ⟨h, h'⟩ := hoff
  · rw [busRead_din h (by omega), lane_wordAt _ _ hk, storeWindow_din_storesLanes hal w s (by omega),
      if_pos (by omega), show 0x040 + (off - 0x040 + k) - off = k by omega]
  · rw [busRead_ivbuf h (by omega), storeWindow_build, if_pos (by omega), lane_listWordAt _ _ hk,
      storeWindow_ivbuf_storesLanes hal w hz hlen (by omega), if_pos (by omega),
      show 0x100 + (off - 0x100 + k) - off = k by omega]

theorem storeWindow_pending (off : Nat) (w : Word) (s : State) : (storeWindow off w s).pending = s.pending :=
  (congrArg State.pending (storeWindow_frame off w s)).trans rfl

/-- Settles O11: the first step stores the word and leaves the read pending; the second answers it. -/
theorem writtenWordReadsBack : Obligations.WrittenWordReadsBack := by
  unfold Obligations.WrittenWordReadsBack
  intro s off w rest hp hal hz hlen hoff
  have hin : off < windowSize := show off < 0x400 by omega
  have hread : (storeWindow off w (afterWrite (.access (.read 4 off) :: rest) s)).pending =
      .access (.read 4 off) :: rest := storeWindow_pending _ _ _
  refine ⟨_, _, step_store hp (by omega) hin hal, step_read hread hin hal, ?_⟩
  exact congrArg Reply.data (busRead_storeWindow hal w (s := afterWrite _ s) hz hlen hoff)

/-! ## The eight key writes of `ldkey` (R38, R61) -/

theorem run_succ_of_step {s t : State} (h : step s = .next t) (n : Nat) :
    Sys2Proof.core.run (n + 1) s = Sys2Proof.core.run n t := by
  have hcore : Sys2Proof.core.step s = .next t := h
  simp only [Host.Core.run, hcore]

/-- The write of word `i` of the key bytes. -/
def keyWordWrite (bytes : List Byte) (i : Nat) : Access := .write 4 (0x020 + 4 * i) (listWordAt bytes (4 * i))

theorem assemble_ldkey {bytes : List Byte} (h : bytes.length = 32) (zmax : Nat) :
    assemble zmax (.ldkey bytes) = some ((List.range' 0 8).map (keyWordWrite bytes)) := by
  rw [assemble, if_pos h, loadWrites, h, List.range_eq_range']
  rfl

theorem step_keyWordWrite {s : State} {bytes : List Byte} {i : Nat} {rest : List HostEvent} (hi : i < 8)
    (hp : s.pending = .access (keyWordWrite bytes i) :: rest) :
    step s = .next (storeKey (4 * i) (listWordAt bytes (4 * i)) (afterWrite rest s)) := by
  have hin : 0x020 + 4 * i < windowSize := show 0x020 + 4 * i < 0x400 by omega
  rw [step_store hp (by omega) hin (by omega), storeWindow_eq_storeKey (by omega), Nat.add_sub_cancel_left]

/-- The word store puts four bytes of the string at the index they have in it. -/
theorem byteAt_setWord_listWordAt (k : Key) (bytes : List Byte) (i : Nat) {j : Nat} (hj : j < 32) :
    byteAt (setWord k i (listWordAt bytes i)) j = if i ≤ j ∧ j < i + 4 then listByte bytes j else byteAt k j := by
  rw [byteAt_setWord, if_pos hj]
  by_cases h : i ≤ j ∧ j < i + 4
  · rw [if_pos h, if_pos h, lane_listWordAt _ _ (by omega), Nat.add_sub_cancel' h.1]
  · rw [if_neg h, if_neg h]

/-- `n + 1` key writes from word `i` on load those words of the string, and write no other register. -/
theorem run_keyWordWrites (bytes : List Byte) (n : Nat) : ∀ (i : Nat) (s : State), i + n < 8 →
    s.pending = ((List.range' i (n + 1)).map (keyWordWrite bytes)).map HostEvent.access →
      ∃ k : Key, Sys2Proof.core.run (n + 1) s = .next { s with key := k, pending := [], reply := .done } ∧
        ∀ j, j < 32 → byteAt k j =
          if 4 * i ≤ j ∧ j < 4 * (i + n + 1) then listByte bytes j else byteAt s.key j := by
  induction n with
  | zero =>
    intro i s hi hp
    exact ⟨_, run_succ_of_step (step_keyWordWrite hi hp) 0,
      fun _ hj => byteAt_setWord_listWordAt s.key bytes (4 * i) hj⟩
  | succ n ih =>
    intro i s hi hp
    rw [List.range'_succ] at hp
    have hstep := step_keyWordWrite (by omega) hp
    obtain ⟨k, hrun, hk⟩ := ih (i + 1) (storeKey (4 * i) (listWordAt bytes (4 * i)) (afterWrite _ s)) (by omega) rfl
    refine ⟨k, (run_succ_of_step hstep _).trans hrun, fun j hj => ?_⟩
    rw [hk j hj, storeKey_key, byteAt_setWord_listWordAt _ _ _ hj]
    by_cases hlater : 4 * (i + 1) ≤ j ∧ j < 4 * (i + 1 + n + 1)
    · rw [if_pos hlater, if_pos (by omega)]
    · rw [if_neg hlater]
      exact if_congr (by omega) rfl rfl

/-- Settles O58: the eight writes from word 0 on cover the 32 bytes of `KEY`. -/
theorem ldkeyLoadsTheKey : Obligations.LdkeyLoadsTheKey := by
  unfold Obligations.LdkeyLoadsTheKey
  intro s zmax bytes hlen
  obtain ⟨k, hrun, hk⟩ := run_keyWordWrites bytes 7 0
    { s with pending := ((List.range' 0 8).map (keyWordWrite bytes)).map HostEvent.access } (by decide) rfl
  refine ⟨_, _, assemble_ldkey hlen zmax, hrun, fun j hj => ?_, rfl⟩
  rw [hk j hj, if_pos (by omega)]

end Sys2Proof.Machine
end

section
/-!
The encoding family (spec/30_encoding.md): the decoder and the encoder are inverse to each other, and the decoder accepts
exactly the words of `Legal`.
-/

namespace Sys2Proof

open Machine

/-! ## Words and their fields (R54) -/

theorem packWord_lanes (w : Word) : packWord (lane w 0) (lane w 1) (lane w 2) (lane w 3) = w := by
  refine word_ext fun k hk => ?_
  rw [lane_packWord _ _ _ _ k hk]
  obtain rfl | rfl | rfl | rfl : k = 0 ∨ k = 1 ∨ k = 2 ∨ k = 3 := by omega
  all_goals rfl

/-- A word with `RSV = 0` has no bit outside the three fields that `commandWord` writes. -/
theorem commandWord_fields {w : Word} (h : fieldRsv w = 0) :
    commandWord (fieldOp w) (fieldIdx w) (fieldLen w) = w := by
  calc commandWord (fieldOp w) (fieldIdx w) (fieldLen w)
      = packWord (fieldOp w) (fieldIdx w) (fieldLen w) (fieldRsv w) := by rw [h]; rfl
    _ = w := packWord_lanes w

theorem decodeWord_of_rsv_eq_zero {w : Word} (h : fieldRsv w = 0) :
    decodeWord w = decodeFields (fieldOp w) (fieldIdx w) (fieldLen w) := by
  rw [decodeWord, if_neg (not_not.mpr h)]

theorem decodeWord_of_rsv_ne_zero {w : Word} (h : fieldRsv w ≠ 0) : decodeWord w = .error .reservedNotZero := by
  rw [decodeWord, if_pos h]

theorem decodeWord_commandWord (op idx len : Byte) : decodeWord (commandWord op idx len) = decodeFields op idx len := by
  simp [decodeWord_of_rsv_eq_zero]

/-! ## The three kinds of command (R56) -/

theorem plainCommand_eq_ok {idx len : Byte} {i j : Instr} :
    plainCommand idx len i = .ok j ↔ idx = 0 ∧ len = 0 ∧ i = j := by
  unfold plainCommand
  split_ifs <;> simp_all

theorem lengthCommand_eq_ok {idx : Byte} {i j : Instr} : lengthCommand idx i = .ok j ↔ idx = 0 ∧ i = j := by
  unfold lengthCommand
  split_ifs <;> simp_all

theorem indexCommand_eq_ok {len : Byte} {inRange : Bool} {i j : Instr} :
    indexCommand len inRange i = .ok j ↔ len = 0 ∧ inRange = true ∧ i = j := by
  unfold indexCommand
  split_ifs <;> simp_all

/-! ## Legality, field by field (R57) -/

/-- The lines of `Legal(w)` on the range of `IDX`. -/
def IndexInRange (op idx : Byte) : Prop :=
  (op = 0x38 → idx.toNat ≤ 15) ∧ (op = 0x39 → 1 ≤ idx.toNat ∧ idx.toNat ≤ 32)

/-- The lines of `Legal(w)` on the three fields that are not reserved. -/
def FieldsLegal (op idx len : Byte) : Prop :=
  op ∈ assignedOpcodes ∧ (op ∉ indexOpcodes → idx = 0) ∧ (op ∉ lengthOpcodes → len = 0) ∧ IndexInRange op idx

theorem indexInRange_of_not_mem {op : Byte} (h : op ∉ indexOpcodes) (idx : Byte) : IndexInRange op idx :=
  ⟨fun hop => absurd (hop ▸ by decide) h, fun hop => absurd (hop ▸ by decide) h⟩

theorem legal_iff (w : Word) :
    legal w = true ↔ fieldRsv w = 0 ∧ FieldsLegal (fieldOp w) (fieldIdx w) (fieldLen w) := by
  unfold legal FieldsLegal IndexInRange
  split_ifs <;> grind

/-! ## The opcode map (R56) -/

/-- The row of the opcode map that an opcode selects (R56): which of its fields it uses, what they must be, and the
command whose encoding has these fields; `OpcodeRow op idx len r` when the row answers `r`. -/
inductive OpcodeRow (op idx len : Byte) : Except DecodeError Instr → Prop where
  /-- The command uses neither field. -/
  | plain (i : Instr) (hop : op ∈ assignedOpcodes ∧ op ∉ indexOpcodes ∧ op ∉ lengthOpcodes)
      (hwf : i.wellFormed = true) (henc : encode i = commandWord op 0 0) :
      OpcodeRow op idx len (plainCommand idx len i)
  /-- The command uses `LEN`. -/
  | length (i : Instr) (hop : op ∈ assignedOpcodes ∧ op ∉ indexOpcodes ∧ op ∈ lengthOpcodes)
      (hwf : i.wellFormed = true) (henc : encode i = commandWord op 0 len) :
      OpcodeRow op idx len (lengthCommand idx i)
  /-- The command uses `IDX`, in the range of its opcode. -/
  | index (i : Instr) (hop : op ∈ assignedOpcodes ∧ op ∈ indexOpcodes ∧ op ∉ lengthOpcodes)
      (hwf : i.wellFormed = true ↔ IndexInRange op idx)
      (henc : encode i = commandWord op idx 0) : OpcodeRow op idx len (indexCommand len i.wellFormed i)
  /-- The map has no such row. -/
  | unassigned (hop : op ∉ assignedOpcodes) : OpcodeRow op idx len (.error .unassignedOpcode)

/-- The opcode map, row by row. -/
theorem decodeFields_row (op idx len : Byte) : OpcodeRow op idx len (decodeFields op idx len) := by
  unfold decodeFields
  split
  · exact .plain .nop (by decide) rfl rfl
  · exact .length (.keyexp len) (by decide) rfl rfl
  · exact .plain .keyclr (by decide) rfl rfl
  · exact .length (.enc len) (by decide) rfl rfl
  · exact .length (.dec len) (by decide) rfl rfl
  · exact .length (.ofbinit len) (by decide) rfl rfl
  · exact .length (.ofb len) (by decide) rfl rfl
  · exact .plain .sub (by decide) rfl rfl
  · exact .plain .subi (by decide) rfl rfl
  · exact .plain .lt (by decide) rfl rfl
  · exact .plain .lti (by decide) rfl rfl
  · exact .plain .rst (by decide) rfl rfl
  · exact .plain .rsti (by decide) rfl rfl
  · exact .index (.gfmul idx) (by decide) (by simp [IndexInRange, Instr.wellFormed, gfmulIndexOk]) rfl
  · exact .index (.rcon idx) (by decide) (by simp [IndexInRange, Instr.wellFormed, rconIndexOk]) rfl
  · exact .unassigned (by simp_all [assignedOpcodes])

/-! ## Decoding and encoding (R54, R56, R59) -/

/-- The fields that the encoder writes select the row of the instruction itself, and meet its conditions. -/
theorem decodeWord_encode {i : Instr} (h : i.wellFormed = true) : decodeWord (encode i) = .ok i := by
  cases i with
  | nop => exact decodeWord_commandWord 0x00 0 0
  | keyexp len => exact decodeWord_commandWord 0x01 0 len
  | keyclr => exact decodeWord_commandWord 0x02 0 0
  | enc len => exact decodeWord_commandWord 0x10 0 len
  | dec len => exact decodeWord_commandWord 0x11 0 len
  | ofbinit len => exact decodeWord_commandWord 0x20 0 len
  | ofb len => exact decodeWord_commandWord 0x21 0 len
  | sub => exact decodeWord_commandWord 0x30 0 0
  | subi => exact decodeWord_commandWord 0x31 0 0
  | lt => exact decodeWord_commandWord 0x32 0 0
  | lti => exact decodeWord_commandWord 0x33 0 0
  | rst => exact decodeWord_commandWord 0x34 0 0
  | rsti => exact decodeWord_commandWord 0x35 0 0
  | gfmul idx => exact (decodeWord_commandWord 0x38 idx 0).trans (indexCommand_eq_ok.mpr ⟨rfl, h, rfl⟩)
  | rcon idx => exact (decodeWord_commandWord 0x39 idx 0).trans (indexCommand_eq_ok.mpr ⟨rfl, h, rfl⟩)

theorem OpcodeRow.wellFormed_and_encode {op idx len : Byte} {r : Except DecodeError Instr} {i : Instr}
    (hrow : OpcodeRow op idx len r) (h : r = .ok i) : i.wellFormed = true ∧ encode i = commandWord op idx len := by
  cases hrow with
  | plain j _ hwf henc =>
    obtain ⟨rfl, rfl, rfl⟩ := plainCommand_eq_ok.mp h
    exact ⟨hwf, henc⟩
  | length j _ hwf henc =>
    obtain ⟨rfl, rfl⟩ := lengthCommand_eq_ok.mp h
    exact ⟨hwf, henc⟩
  | index j _ _ henc =>
    obtain ⟨rfl, hwf, rfl⟩ := indexCommand_eq_ok.mp h
    exact ⟨hwf, henc⟩
  | unassigned => cases h

theorem rsv_eq_zero_of_decodeWord_eq_ok {w : Word} {i : Instr} (h : decodeWord w = .ok i) : fieldRsv w = 0 := by
  by_contra hrsv
  rw [decodeWord_of_rsv_ne_zero hrsv] at h
  cases h

theorem wellFormed_and_encode_of_decodeWord {w : Word} {i : Instr} (h : decodeWord w = .ok i) :
    i.wellFormed = true ∧ encode i = w := by
  have hrsv := rsv_eq_zero_of_decodeWord_eq_ok h
  rw [decodeWord_of_rsv_eq_zero hrsv] at h
  have hfields := (decodeFields_row _ _ _).wellFormed_and_encode h
  rwa [commandWord_fields hrsv] at hfields

/-! ## The decoder accepts exactly the legal words (R57) -/

/-- A row accepts its fields exactly when the lines of `Legal(w)` about them hold. -/
theorem OpcodeRow.exists_ok_iff {op idx len : Byte} {r : Except DecodeError Instr} (hrow : OpcodeRow op idx len r) :
    (∃ i, r = .ok i) ↔ FieldsLegal op idx len := by
  unfold FieldsLegal
  cases hrow with
  | plain i hop =>
    obtain ⟨hassigned, hindex, hlength⟩ := hop
    simp [plainCommand_eq_ok, hassigned, hindex, hlength, indexInRange_of_not_mem hindex]
  | length i hop =>
    obtain ⟨hassigned, hindex, hlength⟩ := hop
    simp [lengthCommand_eq_ok, hassigned, hindex, hlength, indexInRange_of_not_mem hindex]
  | index i hop hwf =>
    obtain ⟨hassigned, hindex, hlength⟩ := hop
    simp [indexCommand_eq_ok, hwf, hassigned, hindex, hlength]
  | unassigned hop => simp [hop]

theorem exists_decodeWord_iff (w : Word) :
    (∃ i, decodeWord w = .ok i) ↔ fieldRsv w = 0 ∧ FieldsLegal (fieldOp w) (fieldIdx w) (fieldLen w) := by
  by_cases hrsv : fieldRsv w = 0
  · rw [decodeWord_of_rsv_eq_zero hrsv, (decodeFields_row _ _ _).exists_ok_iff]
    exact (and_iff_right hrsv).symm
  · exact iff_of_false (fun ⟨_, h⟩ => hrsv (rsv_eq_zero_of_decodeWord_eq_ok h)) fun ⟨h, _⟩ => hrsv h

theorem exists_decodeWord_iff_legal (w : Word) : (∃ i, decodeWord w = .ok i) ↔ legal w = true :=
  (exists_decodeWord_iff w).trans (legal_iff w).symm

/-- Settles O1: the encoder writes the fields of the instruction's row, and the decoder selects that row. -/
theorem encodedCommandDecodesToItself : Obligations.EncodedCommandDecodesToItself := by
  unfold Obligations.EncodedCommandDecodesToItself
  exact fun _ => decodeWord_encode

/-- Settles O2: the row of the word's opcode fixes every field, and `RSV` is zero. -/
theorem decodedWordIsItsEncoding : Obligations.DecodedWordIsItsEncoding := by
  unfold Obligations.DecodedWordIsItsEncoding
  exact fun _ _ => wellFormed_and_encode_of_decodeWord

/-- Settles O3: each row of the opcode map accepts its fields exactly when `Legal(w)` does. -/
theorem decoderAcceptsExactlyLegalWords : Obligations.DecoderAcceptsExactlyLegalWords := by
  unfold Obligations.DecoderAcceptsExactlyLegalWords
  exact exists_decodeWord_iff

/-- Settles O4: the fifteen words are encodings of their commands; the two illegal words have one fault each. -/
theorem writtenOutWordsDecode : Obligations.WrittenOutWordsDecode := by
  unfold Obligations.WrittenOutWordsDecode
  exact ⟨decodeWord_encode (i := .nop) rfl, decodeWord_encode (i := .keyexp 32) rfl,
    decodeWord_encode (i := .keyclr) rfl, decodeWord_encode (i := .enc 16) rfl,
    decodeWord_encode (i := .dec 16) rfl, decodeWord_encode (i := .ofbinit 32) rfl,
    decodeWord_encode (i := .ofb 5) rfl, decodeWord_encode (i := .sub) rfl,
    decodeWord_encode (i := .subi) rfl, decodeWord_encode (i := .lt) rfl,
    decodeWord_encode (i := .lti) rfl, decodeWord_encode (i := .rst) rfl,
    decodeWord_encode (i := .rsti) rfl,
    decodeWord_encode (i := .gfmul 15) rfl, decodeWord_encode (i := .rcon 32) rfl,
    decodeWord_of_rsv_ne_zero (by decide), decodeWord_commandWord 0x30 0 0x10⟩

end Sys2Proof
end

section
/-!
The encoding family (spec/30_encoding.md), continued: what the assembler puts on the bus.
-/

namespace Sys2Proof.Machine

/-! ## The accesses of a statement (R60, R61) -/

/-- What R60 promises of an access that the host does not write out itself: it is inside the window, it is accepted,
and a word it writes to `CMD` is legal. -/
def Access.Ordinary (a : Access) : Prop :=
  a.offset < 0x400 ∧ accepted a = true ∧ ∀ size w, a = .write size 0x000 w → ∃ i, decodeWord w = .ok i

theorem ordinary_read {off : Nat} (hin : off < 0x400) (hal : off % 4 = 0) : (Access.read 4 off).Ordinary :=
  ⟨hin, (accepted_iff _).mpr ⟨rfl, hal⟩, nofun⟩

theorem ordinary_write {off : Nat} {w : Word} (hin : off < 0x400) (hal : off % 4 = 0)
    (hw : off = 0x000 → ∃ i, decodeWord w = .ok i) : (Access.write 4 off w).Ordinary := by
  refine ⟨hin, (accepted_iff _).mpr ⟨rfl, hal⟩, fun size v heq => ?_⟩
  obtain ⟨-, hoff, rfl⟩ := Access.write.inj heq
  exact hw hoff

theorem ordinary_of_commandWrite {i : Instr} {accesses : List Access} (h : commandWrite i = some accesses) :
    ∀ a ∈ accesses, a.Ordinary := by
  obtain ⟨hwf, rfl⟩ := (commandWrite_eq_some i accesses).mp h
  exact List.forall_mem_singleton.mpr
    (ordinary_write (by decide) (by decide) fun _ => ⟨i, decodeWord_encode hwf⟩)

theorem ordinary_of_commandWith {f : Byte → Instr} {n : Nat} {accesses : List Access}
    (h : commandWith f n = some accesses) : ∀ a ∈ accesses, a.Ordinary := by
  obtain ⟨-, hwrite⟩ := (commandWith_eq_some f n accesses).mp h
  exact ordinary_of_commandWrite hwrite

/-- A load that starts behind `CMD` and ends inside the window. -/
theorem ordinary_of_mem_loadWrites {base : Nat} {bytes : List Byte} (hcmd : 0 < base) (hal : base % 4 = 0)
    (hend : base + bytes.length ≤ 0x400) : ∀ a ∈ loadWrites base bytes, a.Ordinary := by
  intro a ha
  obtain ⟨i, hi, rfl⟩ := (mem_loadWrites base bytes a).mp ha
  exact ordinary_write (by omega) (by omega) fun h => by omega

/-- The load statements: a check of the byte count, and then a load. -/
theorem ordinary_of_checked_loadWrites {c : Prop} [Decidable c] {base : Nat} {bytes : List Byte}
    {accesses : List Access} (h : (if c then some (loadWrites base bytes) else none) = some accesses)
    (hcmd : 0 < base) (hal : base % 4 = 0) (hend : c → base + bytes.length ≤ 0x400) :
    ∀ a ∈ accesses, a.Ordinary := by
  obtain ⟨hc, hload⟩ := Option.ite_none_right_eq_some.mp h
  cases hload
  exact ordinary_of_mem_loadWrites hcmd hal (hend hc)

/-- Only `wr`, `rd` and `cmd` put an access on the bus that the host writes out itself. -/
theorem ordinary_of_assemble {zmax : Nat} {st : Stmt} {accesses : List Access} (hz : zmax ≤ 15)
    (h : assemble zmax st = some accesses) (hwr : ∀ off w, st ≠ .wr off w) (hrd : ∀ off, st ≠ .rd off)
    (hcmd : ∀ w, st ≠ .cmd w) : ∀ a ∈ accesses, a.Ordinary := by
  cases st with
  | wr off w => exact absurd rfl (hwr off w)
  | rd off => exact absurd rfl (hrd off)
  | cmd w => exact absurd rfl (hcmd w)
  | nop | keyclr | sub | subi | lt | lti | rst | rsti => exact ordinary_of_commandWrite h
  | keyexp | enc | dec | ofbinit | ofb | gfmul | rcon | keyexpPlain | encPlain | decPlain | ofbPlain | ofbenc
  | ofbdec | ofbinitb => exact ordinary_of_commandWith h
  | ldkey | ldin | ldiv => exact ordinary_of_checked_loadWrites h (by decide) (by decide) (by omega)
  | rdout | rdst =>
    cases h
    simp [ordinary_read]

/-- Settles O57: `wr` and `rd` give their own access, `cmd` its own word, and every other statement ordinary
accesses. -/
theorem assembledStatementsAreAcceptedAndLegal : Obligations.AssembledStatementsAreAcceptedAndLegal := by
  unfold Obligations.AssembledStatementsAreAcceptedAndLegal
  refine ⟨fun zmax st accesses hz h a ha => ?_, fun zmax w => ?_⟩
  · cases st with
    | wr off w =>
      obtain ⟨hin, -, hlegal, rfl⟩ := (busWriteStatement_eq_some off w accesses).mp h
      obtain rfl := List.mem_singleton.mp ha
      refine ⟨hin, fun hwr => absurd rfl (hwr off w), fun _ size v heq => ?_⟩
      obtain ⟨-, hcmd, rfl⟩ := Access.write.inj heq
      exact (exists_decodeWord_iff_legal _).mpr (hlegal hcmd)
    | rd off =>
      obtain ⟨hin, hread⟩ := Option.ite_none_right_eq_some.mp h
      cases hread
      obtain rfl := List.mem_singleton.mp ha
      exact ⟨hin, fun _ hrd => absurd rfl (hrd off), nofun⟩
    | cmd w =>
      obtain ⟨-, hwrite⟩ := Option.ite_none_right_eq_some.mp h
      cases hwrite
      obtain rfl := List.mem_singleton.mp ha
      exact ⟨Nat.zero_lt_succ _, fun _ _ => (accepted_iff _).mpr ⟨rfl, rfl⟩, fun hcmd => absurd rfl (hcmd w)⟩
    | _ =>
      obtain ⟨hin, hacc, hlegal⟩ := ordinary_of_assemble hz h nofun nofun nofun a ha
      exact ⟨hin, fun _ _ => hacc, fun _ => hlegal⟩
  · rw [assemble, if_pos w.isLt, BitVec.ofNat_toNat, BitVec.setWidth_eq]

end Sys2Proof.Machine
end

section
/-!
The substitution and linear family (spec/40_substitution_linear.md): XOR sums, multiplication in the field, the
substitution layer, the step R and the linear transform L.
-/

namespace Sys2Proof.Machine

/-! ## XOR sums and maps that keep XOR -/

/-- A map on bytes that keeps XOR, the addition of the field (R69). -/
def XorAdditive (f : Byte → Byte) : Prop := ∀ a b, f (a ^^^ b) = f a ^^^ f b

theorem XorAdditive.map_zero {f : Byte → Byte} (hf : XorAdditive f) : f 0 = 0 := by
  simpa using hf 0 0

theorem XorAdditive.iterate {f : Byte → Byte} (hf : XorAdditive f) (n : Nat) : XorAdditive f^[n] :=
  Function.Semiconj₂.iterate (op := (· ^^^ ·)) hf n

@[simp] theorem xorSum_zero (f : Nat → Byte) : xorSum 0 f = 0 := rfl

theorem xorSum_succ (n : Nat) (f : Nat → Byte) : xorSum (n + 1) f = xorSum n f ^^^ f n := by
  simp [xorSum, List.range_succ]

theorem xorSum_congr {n : Nat} {f g : Nat → Byte} (h : ∀ j, j < n → f j = g j) : xorSum n f = xorSum n g := by
  induction n with
  | zero => rfl
  | succ n ih => rw [xorSum_succ, xorSum_succ, ih fun j hj => h j (by omega), h n n.lt_succ_self]

theorem xorSum_xor (n : Nat) (f g : Nat → Byte) :
    (xorSum n fun j => f j ^^^ g j) = xorSum n f ^^^ xorSum n g := by
  induction n with
  | zero => simp
  | succ n ih => simp only [xorSum_succ, ih]; ac_rfl

theorem XorAdditive.map_xorSum {φ : Byte → Byte} (hφ : XorAdditive φ) (n : Nat) (f : Nat → Byte) :
    φ (xorSum n f) = xorSum n fun j => φ (f j) := by
  induction n with
  | zero => exact hφ.map_zero
  | succ n ih => rw [xorSum_succ, xorSum_succ, hφ, ih]

/-! ## Multiplication in the field (R69) -/

/-- The product by x as a sum: the shifted byte, and the reduction if the top bit is set. -/
theorem timesX_eq (t : CipherTables) (a : Byte) :
    timesX t a = a <<< 1 ^^^ bif a.getLsbD 7 then t.gfPoly.setWidth 8 else 0 := by
  rw [timesX]
  cases a.getLsbD 7 <;> simp

/-- Selecting a byte by a bit keeps XOR in the bit. -/
theorem select_xor (p : Byte) (c d : Bool) :
    (bif c ^^ d then p else 0) = (bif c then p else 0) ^^^ bif d then p else 0 := by
  cases c <;> cases d <;> simp

theorem timesX_xorAdditive (t : CipherTables) : XorAdditive (timesX t) := by
  intro a b
  simp only [timesX_eq, BitVec.getLsbD_xor, BitVec.shiftLeft_xor_distrib, select_xor]
  ac_rfl

/-- What bit k of the multiplier adds to a product: x^k times the multiplicand, or nothing. -/
def gfTerm (t : CipherTables) (a b : Byte) (k : Nat) : Byte := bif b.getLsbD k then (timesX t)^[k] a else 0

/-- The loop of R69 after n bits. -/
theorem foldl_gf_loop (t : CipherTables) (a b : Byte) (n : Nat) :
    (List.range n).foldl
      (fun ra k => (bif b.getLsbD k then ra.1 ^^^ ra.2 else ra.1, timesX t ra.2)) ((0, a) : Byte × Byte) =
      (xorSum n (gfTerm t a b), (timesX t)^[n] a) := by
  induction n with
  | zero => rfl
  | succ n ih =>
    rw [List.range_succ, List.foldl_append, ih, xorSum_succ, gfTerm, Function.iterate_succ_apply']
    cases hbit : b.getLsbD n <;> simp [hbit]

theorem gf_eq_xorSum (t : CipherTables) (a b : Byte) : gf t a b = xorSum 8 (gfTerm t a b) := by
  rw [gf, foldl_gf_loop]

theorem gf_xor_left (t : CipherTables) (a a' b : Byte) : gf t (a ^^^ a') b = gf t a b ^^^ gf t a' b := by
  rw [gf_eq_xorSum, gf_eq_xorSum, gf_eq_xorSum, ← xorSum_xor]
  refine xorSum_congr fun k _ => ?_
  cases hbit : b.getLsbD k <;> simp [gfTerm, hbit, (timesX_xorAdditive t).iterate k a a']

/-- A map that keeps XOR and commutes with the product by x goes through a product. -/
theorem map_gf {t : CipherTables} {φ : Byte → Byte} (hφ : XorAdditive φ) (hx : Function.Commute φ (timesX t))
    (a b : Byte) : φ (gf t a b) = gf t (φ a) b := by
  rw [gf_eq_xorSum, gf_eq_xorSum, hφ.map_xorSum]
  refine xorSum_congr fun k _ => ?_
  cases hbit : b.getLsbD k
  · simpa [gfTerm, hbit] using hφ.map_zero
  · simpa [gfTerm, hbit] using hx.iterate_right k a

theorem timesX_gf (t : CipherTables) (a b : Byte) : timesX t (gf t a b) = gf t (timesX t a) b :=
  map_gf (timesX_xorAdditive t) (Function.Commute.refl _) a b

/-- Multiplication by `c` is itself such a map. -/
theorem gf_right_comm (t : CipherTables) (a b c : Byte) : gf t (gf t a b) c = gf t (gf t a c) b :=
  map_gf (φ := fun v => gf t v c) (fun a a' => gf_xor_left t a a' c) (fun v => (timesX_gf t v c).symm) a b

/-- The first eight powers of x need no reduction. -/
theorem timesX_iterate_one (t : CipherTables) {k : Nat} (hk : k < 8) : (timesX t)^[k] 1 = BitVec.twoPow 8 k := by
  induction k with
  | zero => rfl
  | succ k ih =>
    have htop : (BitVec.twoPow 8 k).getLsbD 7 = false := by
      rw [BitVec.getLsbD_twoPow, decide_eq_false (show k ≠ 7 by omega), Bool.and_false]
    rw [Function.iterate_succ_apply', ih (by omega), timesX, htop, cond_false, BitVec.twoPow, BitVec.twoPow,
      BitVec.shiftLeft_add]

/-- With multiplicand 1, the terms of the first n bits of the multiplier are those bits. -/
theorem getLsbD_xorSum_gfTerm_one (t : CipherTables) (a : Byte) {n : Nat} (hn : n ≤ 8) (i : Nat) :
    (xorSum n (gfTerm t 1 a)).getLsbD i = (decide (i < n) && a.getLsbD i) := by
  induction n with
  | zero => simp
  | succ n ih =>
    rw [xorSum_succ, BitVec.getLsbD_xor, ih (by omega), gfTerm, timesX_iterate_one t (by omega)]
    cases hbit : a.getLsbD n
    · rw [cond_false, BitVec.ofNat_eq_ofNat, BitVec.getLsbD_zero]
      grind
    · rw [cond_true, BitVec.getLsbD_twoPow]
      grind

theorem gf_one_left (t : CipherTables) (a : Byte) : gf t 1 a = a := by
  rw [gf_eq_xorSum]
  refine BitVec.eq_of_getLsbD_eq fun i hi => ?_
  rw [getLsbD_xorSum_gfTerm_one t a le_rfl, decide_eq_true hi, Bool.true_and]

theorem gf_comm (t : CipherTables) (a b : Byte) : gf t a b = gf t b a := by
  simpa only [gf_one_left] using gf_right_comm t 1 a b

theorem gf_assoc (t : CipherTables) (a b c : Byte) : gf t (gf t a b) c = gf t a (gf t b c) := by
  rw [gf_comm t a b, gf_right_comm, gf_comm]

theorem gf_xorAdditive (t : CipherTables) (a : Byte) : XorAdditive (gf t a) := by
  intro b c
  rw [gf_comm, gf_xor_left, gf_comm t b, gf_comm t c]

theorem gf_zero_right (t : CipherTables) (a : Byte) : gf t a 0 = 0 := (gf_xorAdditive t a).map_zero

theorem gf_zero_left (t : CipherTables) (a : Byte) : gf t 0 a = 0 := by rw [gf_comm, gf_zero_right]

theorem gf_one_right (t : CipherTables) (a : Byte) : gf t a 1 = a := by rw [gf_comm, gf_one_left]

theorem gf_two_left (t : CipherTables) (a : Byte) : gf t 2 a = timesX t a := by
  have htwo : timesX t 1 = 2 := timesX_iterate_one t (k := 1) (by decide)
  rw [← htwo, ← timesX_gf, gf_one_left]

/-- Settles O32: multiplication by a byte keeps XOR and commutes with the product by x, and both arguments of a product
with 1 can be exchanged. -/
theorem fieldMultiplicationLaws : Obligations.FieldMultiplicationLaws := by
  unfold Obligations.FieldMultiplicationLaws
  intro t a b c
  refine ⟨gf_zero_left t a, gf_zero_right t a, gf_one_left t a, gf_comm t a b, gf_assoc t a b c,
    gf_xorAdditive t a b c, gf_xor_left t a b c, ?_⟩
  rw [gf_two_left, timesX, Bool.cond_eq_ite]

/-! ## The substitution layer (R64, R66, R67) -/

theorem byteAt_substitute (t : CipherTables) (x : Block) {j : Nat} (hj : j < 16) :
    byteAt (substitute t x) j = piByte t (byteAt x j) := by
  rw [substitute, byteAt_ofBytes, if_pos hj]

theorem byteAt_substituteInv (t : CipherTables) (x : Block) {j : Nat} (hj : j < 16) :
    byteAt (substituteInv t x) j = pinvByte t (byteAt x j) := by
  rw [substituteInv, byteAt_ofBytes, if_pos hj]

theorem piByte_eq_getElem (t : CipherTables) (v : Byte) :
    piByte t v = t.pi.toList[v.toNat]'(by simpa using v.isLt) := by
  rw [piByte, byteAt_eq_getElem _ _ v.isLt, Vector.getElem_toList]

/-- The index at which `PI` holds `PI[v]` is v, because `PI` holds it once. -/
theorem pinvByte_piByte {t : CipherTables} (ht : t.pi.toList.Nodup) (v : Byte) : pinvByte t (piByte t v) = v := by
  rw [pinvByte, piByte_eq_getElem, ht.idxOf_getElem, BitVec.ofNat_toNat, BitVec.setWidth_eq]

/-- A table of 256 distinct bytes holds every byte, so the left inverse is a right inverse. -/
theorem piByte_pinvByte {t : CipherTables} (ht : t.pi.toList.Nodup) (v : Byte) : piByte t (pinvByte t v) = v := by
  have hleft : Function.LeftInverse (pinvByte t) (piByte t) := pinvByte_piByte ht
  have hsurj : Function.Surjective (piByte t) := Finite.injective_iff_surjective.mp hleft.injective
  exact hleft.rightInverse_of_surjective hsurj v

theorem substituteInv_substitute {t : CipherTables} (ht : t.pi.toList.Nodup) (x : Block) :
    substituteInv t (substitute t x) = x :=
  bytes_ext fun j hj => by rw [byteAt_substituteInv t _ hj, byteAt_substitute t _ hj, pinvByte_piByte ht]

theorem substitute_substituteInv {t : CipherTables} (ht : t.pi.toList.Nodup) (x : Block) :
    substitute t (substituteInv t x) = x :=
  bytes_ext fun j hj => by rw [byteAt_substitute t _ hj, byteAt_substituteInv t _ hj, piByte_pinvByte ht]

/-- Settles O31: `PI` and `PINV` are inverse on bytes, and `S` and `S_inv` apply them byte by byte. -/
theorem substitutionInverse : Obligations.SubstitutionInverse := by
  unfold Obligations.SubstitutionInverse
  intro t x ht
  exact ⟨fun v => ⟨pinvByte_piByte ht v, piByte_pinvByte ht v⟩, fun _ hj => byteAt_substituteInv t x hj,
    substituteInv_substitute ht x, substitute_substituteInv ht x⟩

/-! ## The step R (R71, R72) -/

theorem byteAt_rStep_zero (t : CipherTables) (x : Block) :
    byteAt (rStep t x) 0 = xorSum 16 fun j => gfTable t j (byteAt x j) := by
  simp [rStep]

theorem byteAt_rStep_succ (t : CipherTables) (x : Block) {j : Nat} (hj : j < 15) :
    byteAt (rStep t x) (j + 1) = byteAt x j := by
  simp [rStep, hj]

theorem byteAt_rStepInv_of_lt (t : CipherTables) (x : Block) {j : Nat} (hj : j < 15) :
    byteAt (rStepInv t x) j = byteAt x (j + 1) := by
  simp [rStepInv, hj.ne, show j < 16 by omega]

theorem byteAt_rStepInv_last (t : CipherTables) (x : Block) :
    byteAt (rStepInv t x) 15 = byteAt x 0 ^^^ xorSum 15 fun j => gfTable t j (byteAt x (j + 1)) := by
  simp [rStepInv]

/-- Where `COEF[15] = 1`, the last product is the last byte itself. -/
theorem gfTable_last {t : CipherTables} (ht : t.coef[15] = 1) (v : Byte) : gfTable t 15 v = v := by
  rw [gfTable, byteAt_eq_getElem _ _ (by decide), ht, gf_one_left]

/-- A block is determined by its first fifteen bytes and its last one. -/
theorem block_ext {x y : Block} (h : ∀ j, j < 15 → byteAt x j = byteAt y j) (hlast : byteAt x 15 = byteAt y 15) :
    x = y := by
  refine bytes_ext fun j hj => ?_
  obtain hj | rfl : j < 15 ∨ j = 15 := by omega
  · exact h j hj
  · exact hlast

/-- A block is determined by its first byte and its last fifteen. -/
theorem block_ext_succ {x y : Block} (hfirst : byteAt x 0 = byteAt y 0)
    (h : ∀ j, j < 15 → byteAt x (j + 1) = byteAt y (j + 1)) : x = y := by
  refine bytes_ext fun j hj => ?_
  cases j with
  | zero => exact hfirst
  | succ j => exact h j (by omega)

/-- `R_inv` recomputes the byte that `R` dropped: the fifteen products of the bytes `R` kept cancel. -/
theorem rStepInv_rStep {t : CipherTables} (ht : t.coef[15] = 1) (x : Block) : rStepInv t (rStep t x) = x := by
  refine block_ext (fun j hj => ?_) ?_
  · rw [byteAt_rStepInv_of_lt t _ hj, byteAt_rStep_succ t x hj]
  · have hkept : (xorSum 15 fun j => gfTable t j (byteAt (rStep t x) (j + 1))) =
        xorSum 15 fun j => gfTable t j (byteAt x j) :=
      xorSum_congr fun j hj => by rw [byteAt_rStep_succ t x hj]
    rw [byteAt_rStepInv_last, hkept, byteAt_rStep_zero, xorSum_succ, gfTable_last ht]
    grind

/-- `R` recomputes the byte that `R_inv` dropped, from the same fifteen products. -/
theorem rStep_rStepInv {t : CipherTables} (ht : t.coef[15] = 1) (x : Block) : rStep t (rStepInv t x) = x := by
  refine block_ext_succ ?_ fun j hj => ?_
  · have hkept : (xorSum 15 fun j => gfTable t j (byteAt (rStepInv t x) j)) =
        xorSum 15 fun j => gfTable t j (byteAt x (j + 1)) :=
      xorSum_congr fun j hj => by rw [byteAt_rStepInv_of_lt t x hj]
    rw [byteAt_rStep_zero, xorSum_succ, hkept, gfTable_last ht, byteAt_rStepInv_last]
    grind
  · rw [byteAt_rStep_succ t _ hj, byteAt_rStepInv_of_lt t x hj]

/-- Settles O34: each step restores the fifteen bytes the other moved, and recomputes the one it dropped. -/
theorem rStepInverse : Obligations.RStepInverse := by
  unfold Obligations.RStepInverse
  exact fun _ x ht => ⟨rStepInv_rStep ht x, rStep_rStepInv ht x⟩

/-- Settles O33: the sum of the sixteen products, written out. -/
theorem rStepShiftsAndSums : Obligations.RStepShiftsAndSums := by
  unfold Obligations.RStepShiftsAndSums
  intro t x
  refine ⟨?_, fun j hj => byteAt_rStep_succ t x hj⟩
  rw [byteAt_rStep_zero]
  simp [xorSum_succ, gfTable]

/-! ## The linear transform L (R73, R74) -/

theorem iterate_eq_iterate (f : Block → Block) (n : Nat) : iterate f n = f^[n] := by
  induction n with
  | zero => rfl
  | succ n ih => funext x; rw [iterate, ih, Function.iterate_succ_apply]

theorem linear_eq_iterate (t : CipherTables) : linear t = (rStep t)^[16] :=
  iterate_eq_iterate (rStep t) 16

theorem linearInv_eq_iterate (t : CipherTables) : linearInv t = (rStepInv t)^[16] :=
  iterate_eq_iterate (rStepInv t) 16

theorem linearInv_linear {t : CipherTables} (ht : t.coef[15] = 1) (x : Block) : linearInv t (linear t x) = x := by
  rw [linear_eq_iterate, linearInv_eq_iterate]
  exact Function.LeftInverse.iterate (rStepInv_rStep ht) 16 x

theorem linear_linearInv {t : CipherTables} (ht : t.coef[15] = 1) (x : Block) : linear t (linearInv t x) = x := by
  rw [linear_eq_iterate, linearInv_eq_iterate]
  exact Function.LeftInverse.iterate (rStep_rStepInv ht) 16 x

/-- Settles O36: `L` and `L_inv` are 16 steps that undo each other one by one. -/
theorem linearTransformInverse : Obligations.LinearTransformInverse := by
  unfold Obligations.LinearTransformInverse
  exact fun _ x ht => ⟨linearInv_linear ht x, linear_linearInv ht x⟩

theorem gfTable_xorAdditive (t : CipherTables) (j : Nat) : XorAdditive (gfTable t j) :=
  gf_xorAdditive t (byteAt t.coef j)

theorem rStep_xorBytes (t : CipherTables) (x y : Block) :
    rStep t (xorBytes x y) = xorBytes (rStep t x) (rStep t y) := by
  refine block_ext_succ ?_ fun j hj => ?_
  · simp only [byteAt_xorBytes, byteAt_rStep_zero, gfTable_xorAdditive t _ _ _, xorSum_xor]
  · simp only [byteAt_xorBytes, byteAt_rStep_succ t _ hj]

theorem linear_xorBytes (t : CipherTables) (x y : Block) :
    linear t (xorBytes x y) = xorBytes (linear t x) (linear t y) := by
  rw [linear_eq_iterate]
  exact Function.Semiconj₂.iterate (rStep_xorBytes t) 16 x y

theorem xorBytes_self {n : Nat} (x : Bytes n) : xorBytes x x = zeros n := bytes_ext fun j _ => by simp

theorem linear_zeros (t : CipherTables) : linear t (zeros 16) = zeros 16 := by
  calc linear t (zeros 16) = linear t (xorBytes (zeros 16) (zeros 16)) := by rw [xorBytes_self]
    _ = zeros 16 := by rw [linear_xorBytes, xorBytes_self]

/-- The iterates of a step are the sequence of its applications. -/
theorem exists_step_sequence (f : Block → Block) (n : Nat) (x : Block) :
    ∃ xs : Nat → Block, xs 0 = x ∧ (∀ m, m < n → xs (m + 1) = f (xs m)) ∧ f^[n] x = xs n :=
  ⟨fun m => f^[m] x, rfl, fun m _ => Function.iterate_succ_apply' f m x, rfl⟩

/-- Settles O35: each step R keeps XOR, so sixteen do, and a map that keeps XOR keeps the zero block. -/
theorem linearTransformIsLinear : Obligations.LinearTransformIsLinear := by
  unfold Obligations.LinearTransformIsLinear
  intro t x y
  refine ⟨?_, ?_, linear_xorBytes t x y, linear_zeros t⟩
  · rw [linear_eq_iterate]
    exact exists_step_sequence (rStep t) 16 x
  · rw [linearInv_eq_iterate]
    exact exists_step_sequence (rStepInv t) 16 x

end Sys2Proof.Machine
end

section
/-!
The substitution and linear family (spec/40_substitution_linear.md), continued: the eight diagnostic commands.
-/

namespace Sys2Proof.Machine

/-! ## What the diagnostic commands deliver (R77 to R84) -/

/-- A command that delivers a block writes `DOUT` and reports `OK`; every other field is kept. -/
theorem deliver_eq (b : Block) (s : State) : deliver b s = .next { s with dout := b, err := .ok } := rfl

theorem exec_sub (s : State) : exec .sub s = deliver (substitute s.build.tables s.din) s := rfl

theorem exec_subi (s : State) : exec .subi s = deliver (substituteInv s.build.tables s.din) s := rfl

theorem exec_gfmul {idx : Byte} (h : idx.toNat ≤ 15) (s : State) :
    exec (.gfmul idx) s = deliver (gfRow s.build.tables idx.toNat s.din) s := by
  rw [exec, execGfmul, gfmulIndexOk, if_pos (decide_eq_true h)]

theorem exec_rcon {idx : Byte} (h : 1 ≤ idx.toNat) (h' : idx.toNat ≤ 32) (s : State) :
    exec (.rcon idx) s = deliver (roundConstant s.build.tables idx) s := by
  rw [exec, execRcon, rconIndexOk, if_pos (decide_eq_true ⟨h, h'⟩)]

/-- Settles O53: both deliver their layer of `DIN`; for `SUBI`, `PI` takes each byte of it back. -/
theorem subAndSubiMapEachLane : Obligations.SubAndSubiMapEachLane := by
  unfold Obligations.SubAndSubiMapEachLane
  intro s
  refine ⟨⟨_, exec_sub s, rfl, fun j hj => byteAt_substitute _ s.din hj⟩,
    ⟨_, exec_subi s, rfl, fun ⟨_, _, hpi, _⟩ j hj => ?_⟩⟩
  rw [setErr_dout, setDout_dout, byteAt_substituteInv _ _ hj]
  exact piByte_pinvByte hpi (byteAt s.din j)

/-- Settles O54: the four commands deliver their maps of `DIN`. -/
theorem linearCommandsDeliverTheirMaps : Obligations.LinearCommandsDeliverTheirMaps := by
  unfold Obligations.LinearCommandsDeliverTheirMaps
  exact fun s => ⟨deliver_eq _ s, deliver_eq _ s, deliver_eq _ s, deliver_eq _ s⟩

theorem byteAt_gfRow (t : CipherTables) (i : Nat) (x : Block) {j : Nat} (hj : j < 16) :
    byteAt (gfRow t i x) j = gf t (byteAt t.coef i) (byteAt x j) := by
  rw [gfRow, byteAt_ofBytes, if_pos hj, gfTable]

theorem gfRow_of_coef_eq_one {t : CipherTables} {i : Nat} (h : byteAt t.coef i = 1) (x : Block) : gfRow t i x = x :=
  bytes_ext fun j hj => by rw [byteAt_gfRow t i x hj, h, gf_one_left]

/-- Settles O55: every lane is one product, and the corner lanes are the laws of 0 and 1. -/
theorem gfmulMultipliesEachLane : Obligations.GfmulMultipliesEachLane := by
  unfold Obligations.GfmulMultipliesEachLane
  intro s idx hidx
  refine ⟨_, exec_gfmul hidx s, rfl, fun j hj => ?_, fun hone => gfRow_of_coef_eq_one hone s.din⟩
  rw [setErr_dout, setDout_dout, byteAt_gfRow _ _ _ hj]
  exact ⟨rfl, fun hzero => by rw [hzero, gf_zero_right], fun hone => by rw [hone, gf_one_right]⟩

theorem unitBlock_eq (i : Byte) : unitBlock i = ofBytes 16 fun j => if j < 15 then 0 else i := by
  refine block_ext (fun j hj => ?_) ?_
  · simp [unitBlock, hj, hj.ne]
  · simp [unitBlock]

/-- Settles O56: the round constant is `L` of the block that ends in `IDX`, and no register enters it. -/
theorem rconDeliversTheRoundConstant : Obligations.RconDeliversTheRoundConstant := by
  unfold Obligations.RconDeliversTheRoundConstant
  intro s idx h h'
  rw [exec_rcon h h', deliver_eq, roundConstant, unitBlock_eq]

end Sys2Proof.Machine
end

section
/-!
The key schedule family (spec/41_key_schedule.md): the schedule is one sequence of 32 Feistel rounds from the key halves,
each of which can be undone, and what the two key commands do.
-/

namespace Sys2Proof.Machine

/-! ## The sequence of rounds (R85, R86) -/

/-- The pair `(a, b)` of R86 after `n` inner rounds, counted through all the outer iterations. -/
def feistelPair (t : CipherTables) (k : Key) : Nat → Block × Block
  | 0 => (keyHalf k 0, keyHalf k 16)
  | n + 1 => feistelRound t (feistelPair t k n) (n + 1)

/-- The first `n` rounds of outer iteration `o` continue the sequence where the iterations before it ended. -/
theorem foldl_feistelRound (t : CipherTables) (k : Key) (o n : Nat) :
    (List.range n).foldl (fun ab r => feistelRound t ab (8 * o + r + 1)) (feistelPair t k (8 * o)) =
      feistelPair t k (8 * o + n) := by
  induction n with
  | zero => rfl
  | succ n ih =>
    rw [List.range_succ, List.foldl_append, ih]
    rfl

theorem feistelGroup_feistelPair (t : CipherTables) (k : Key) (o : Nat) :
    feistelGroup t o (feistelPair t k (8 * o)) = feistelPair t k (8 * o + 8) :=
  foldl_feistelRound t k o 8

theorem keySchedule_eq (t : CipherTables) (k : Key) :
    keySchedule t k = #v[keyHalf k 0, keyHalf k 16,
      (feistelPair t k 8).1, (feistelPair t k 8).2, (feistelPair t k 16).1, (feistelPair t k 16).2,
      (feistelPair t k 24).1, (feistelPair t k 24).2, (feistelPair t k 32).1, (feistelPair t k 32).2] := by
  have h1 : feistelGroup t 0 (keyHalf k 0, keyHalf k 16) = feistelPair t k 8 := feistelGroup_feistelPair t k 0
  have h2 : feistelGroup t 1 (feistelPair t k 8) = feistelPair t k 16 := feistelGroup_feistelPair t k 1
  have h3 : feistelGroup t 2 (feistelPair t k 16) = feistelPair t k 24 := feistelGroup_feistelPair t k 2
  have h4 : feistelGroup t 3 (feistelPair t k 24) = feistelPair t k 32 := feistelGroup_feistelPair t k 3
  simp only [keySchedule, h1, h2, h3, h4]

theorem roundKey_keySchedule_zero (t : CipherTables) (k : Key) : roundKey (keySchedule t k) 0 = keyHalf k 0 := rfl

theorem roundKey_keySchedule_one (t : CipherTables) (k : Key) : roundKey (keySchedule t k) 1 = keyHalf k 16 := rfl

/-- Outer iteration `o` appends the pair after its eight rounds. -/
theorem roundKey_keySchedule_pair (t : CipherTables) (k : Key) {o : Nat} (ho : o < 4) :
    (roundKey (keySchedule t k) (2 + 2 * o), roundKey (keySchedule t k) (3 + 2 * o)) = feistelPair t k (8 * o + 8) := by
  rw [keySchedule_eq]
  obtain rfl | rfl | rfl | rfl : o = 0 ∨ o = 1 ∨ o = 2 ∨ o = 3 := by omega
  all_goals rfl

/-- Settles O38: the sequence of rounds starts at the key halves, and the schedule takes every eighth pair of it. -/
theorem keyScheduleRunsThirtyTwoFeistelRounds : Obligations.KeyScheduleRunsThirtyTwoFeistelRounds := by
  unfold Obligations.KeyScheduleRunsThirtyTwoFeistelRounds
  intro t k
  refine ⟨feistelPair t k, ?_, fun n _ => rfl, fun o ho => roundKey_keySchedule_pair t k ho⟩
  rw [roundKey_keySchedule_zero, roundKey_keySchedule_one, feistelPair]

/-! ## The rounds can be undone (R87) -/

theorem xorBytes_left_cancel {n : Nat} {x y z : Bytes n} (h : xorBytes x y = xorBytes x z) : y = z := by
  rw [← xorBytes_cancel_right y x, xorBytes_comm y, h, xorBytes_comm x, xorBytes_cancel_right]

/-- A round keeps the old `a` as the new `b`, so it shows the `F` it has added to the old `b`. -/
theorem feistelRound_injective (t : CipherTables) (idx : Nat) : Function.Injective (feistelRound t · idx) := by
  rintro ⟨a, b⟩ ⟨a', b'⟩ h
  obtain ⟨hsum, rfl⟩ := Prod.mk.inj h
  exact Prod.ext rfl (xorBytes_left_cancel hsum)

theorem key_ext {k k' : Key} (hlow : keyHalf k 0 = keyHalf k' 0) (hhigh : keyHalf k 16 = keyHalf k' 16) : k = k' := by
  refine bytes_ext fun j hj => ?_
  by_cases hj' : j < 16
  · simpa [hj'] using congrArg (byteAt · j) hlow
  · simpa [show j - 16 < 16 by omega, show 16 + (j - 16) = j by omega] using congrArg (byteAt · (j - 16)) hhigh

/-- The pair after any number of rounds determines the key. -/
theorem feistelPair_injective (t : CipherTables) (n : Nat) : Function.Injective (feistelPair t · n) := by
  induction n with
  | zero =>
    intro k k' h
    obtain ⟨hlow, hhigh⟩ := Prod.mk.inj h
    exact key_ext hlow hhigh
  | succ n ih => exact (feistelRound_injective t (n + 1)).comp ih

/-- Settles O37: `K[8]` and `K[9]` are the pair after all 32 rounds, which are injective one by one. -/
theorem keyScheduleStartsWithTheKeyAndIsInjective : Obligations.KeyScheduleStartsWithTheKeyAndIsInjective := by
  unfold Obligations.KeyScheduleStartsWithTheKeyAndIsInjective
  refine ⟨fun t k j hj => ?_, fun t k k' h8 h9 => ?_⟩
  · simp [roundKey_keySchedule_zero, roundKey_keySchedule_one, hj]
  · have hlast : ∀ key : Key,
        (roundKey (keySchedule t key) 8, roundKey (keySchedule t key) 9) = feistelPair t key 32 :=
      fun key => roundKey_keySchedule_pair t key (o := 3) (by decide)
    refine feistelPair_injective t 32 ?_
    calc feistelPair t k 32
        = (roundKey (keySchedule t k) 8, roundKey (keySchedule t k) 9) := (hlast k).symm
      _ = (roundKey (keySchedule t k') 8, roundKey (keySchedule t k') 9) := by rw [h8, h9]
      _ = feistelPair t k' 32 := hlast k'

/-! ## The key commands (R88, R89) -/

theorem exec_keyexp_of_len_eq {len : Byte} (h : len.toNat = 32) (s : State) :
    exec (.keyexp len) s =
      succeed (endSession (wipeKey (setSchedule (keySchedule s.build.tables s.key) true s))) := by
  rw [exec, execKeyexp, if_neg (not_not.mpr h)]

theorem exec_keyexp_of_len_ne {len : Byte} (h : len.toNat ≠ 32) (s : State) :
    exec (.keyexp len) s = raiseError .invalidKeySize (wipeKey s) := by
  rw [exec, execKeyexp, if_pos h]

theorem exec_keyclr (s : State) :
    exec .keyclr s = succeed (endSession (setSchedule (Vector.replicate 10 (zeros 16)) false (wipeKey s))) := rfl

/-- A well-formed command has one word. -/
theorem decodeWord_eq_ok_iff {w : Word} {i : Instr} (hi : i.wellFormed = true) :
    decodeWord w = .ok i ↔ w = encode i := by
  refine ⟨fun h => ?_, fun h => h ▸ decodeWord_encode hi⟩
  obtain ⟨-, henc⟩ := wellFormed_and_encode_of_decodeWord h
  exact henc.symm

/-- Settles O43: `KEYEXP` tests LEN alone, and each branch is its state operations one after the other. -/
theorem keyexpInstallsScheduleAndWipesKey : Obligations.KeyexpInstallsScheduleAndWipesKey := by
  unfold Obligations.KeyexpInstallsScheduleAndWipesKey
  exact fun s len => ⟨fun h => exec_keyexp_of_len_eq h s, fun h => exec_keyexp_of_len_ne h s⟩

/-- Settles O45: `KEYCLR` tests nothing, and 0x00000002 is its encoding. -/
theorem keyclrWipesKeyAndSession : Obligations.KeyclrWipesKeyAndSession := by
  unfold Obligations.KeyclrWipesKeyAndSession
  exact ⟨exec_keyclr, fun _ => decodeWord_eq_ok_iff (i := .keyclr) rfl⟩

end Sys2Proof.Machine
end

section
/-!
The block primitive family (spec/42_block_primitive.md): encryption as a sequence of rounds, each undone by the round of
decryption with the same key, and what `ENC` and `DEC` do.
-/

namespace Sys2Proof.Machine

/-! ## The rounds of encryption (R91) -/

/-- The block after the first `n` rounds of encryption. -/
def encryptRounds (t : CipherTables) (k : RoundKeys) (x : Block) (n : Nat) : Block :=
  (List.range n).foldl (encryptRound t k) x

theorem encryptRounds_succ (t : CipherTables) (k : RoundKeys) (x : Block) (n : Nat) :
    encryptRounds t k x (n + 1) = encryptRound t k (encryptRounds t k x n) n := by
  rw [encryptRounds, List.range_succ, List.foldl_append]
  rfl

theorem encrypt_eq_encryptRounds (t : CipherTables) (k : RoundKeys) (x : Block) :
    encrypt t k x = xorBytes (encryptRounds t k x 9) (roundKey k 9) := rfl

/-- Settles O39: the sequence of blocks after each number of rounds. -/
theorem encryptIsNineRoundsAndWhitening : Obligations.EncryptIsNineRoundsAndWhitening := by
  unfold Obligations.EncryptIsNineRoundsAndWhitening
  exact fun t k x => ⟨encryptRounds t k x, rfl, fun r _ => encryptRounds_succ t k x r, encrypt_eq_encryptRounds t k x⟩

/-! ## Decryption runs the inverse rounds in the opposite order (R92, R93) -/

theorem decryptRound_encryptRound {t : CipherTables} (hpi : t.pi.toList.Nodup) (hcoef : t.coef[15] = 1)
    (k : RoundKeys) (x : Block) (r : Nat) : decryptRound t k (encryptRound t k x r) r = x := by
  rw [decryptRound, encryptRound, linearInv_linear hcoef, substituteInv_substitute hpi, xorBytes_cancel_right]

theorem encryptRound_decryptRound {t : CipherTables} (hpi : t.pi.toList.Nodup) (hcoef : t.coef[15] = 1)
    (k : RoundKeys) (y : Block) (r : Nat) : encryptRound t k (decryptRound t k y r) r = y := by
  rw [encryptRound, decryptRound, xorBytes_cancel_right, substitute_substituteInv hpi, linear_linearInv hcoef]

/-- Steps that undo `f` one by one undo a run of `f` when they are taken in the opposite order. -/
theorem foldl_reverse_foldl_of_undo {f g : Block → Nat → Block} (hundo : ∀ x r, g (f x r) r = x) (rs : List Nat)
    (x : Block) : rs.reverse.foldl g (rs.foldl f x) = x := by
  induction rs generalizing x with
  | nil => rfl
  | cons r rs ih =>
    rw [List.foldl_cons, List.reverse_cons, List.foldl_append, ih]
    exact hundo x r

theorem decrypt_encrypt {t : CipherTables} (hpi : t.pi.toList.Nodup) (hcoef : t.coef[15] = 1) (k : RoundKeys)
    (x : Block) : decrypt t k (encrypt t k x) = x := by
  rw [decrypt, encrypt, xorBytes_cancel_right,
    foldl_reverse_foldl_of_undo (decryptRound_encryptRound hpi hcoef k)]

/-- The run undone here is decryption's, so the rounds 0..8 of encryption are the reverse of its list. -/
theorem encrypt_decrypt {t : CipherTables} (hpi : t.pi.toList.Nodup) (hcoef : t.coef[15] = 1) (k : RoundKeys)
    (y : Block) : encrypt t k (decrypt t k y) = y := by
  have hrounds := foldl_reverse_foldl_of_undo (encryptRound_decryptRound hpi hcoef k) (List.range 9).reverse
  rw [List.reverse_reverse] at hrounds
  rw [encrypt, decrypt, hrounds, xorBytes_cancel_right]

/-- Settles O40: the whitening XOR cancels, and the rounds undo each other from the middle out. -/
theorem decryptAndEncryptAreInverse : Obligations.DecryptAndEncryptAreInverse := by
  unfold Obligations.DecryptAndEncryptAreInverse
  intro t k hpi hcoef
  refine ⟨fun x => ⟨decrypt_encrypt hpi hcoef k x, encrypt_decrypt hpi hcoef k x⟩, ?_⟩
  exact Function.bijective_iff_has_inverse.mpr ⟨decrypt t k, decrypt_encrypt hpi hcoef k, encrypt_decrypt hpi hcoef k⟩

/-! ## The block commands (R94, R95) -/

/-- With a key and LEN = 16 both checks pass. -/
theorem blockCommand_of_checks {s : State} {len : Byte} (hkv : s.kv = true) (hlen : len.toNat = 16) (b : Block) :
    blockCommand len b s = deliver b s := by
  rw [blockCommand, if_neg (by simp [hkv]), if_neg (not_not.mpr hlen)]

theorem exec_enc {s : State} {len : Byte} (hkv : s.kv = true) (hlen : len.toNat = 16) :
    exec (.enc len) s = .next { s with dout := encrypt s.build.tables s.rk s.din, err := .ok } :=
  blockCommand_of_checks hkv hlen _

theorem exec_dec {s : State} {len : Byte} (hkv : s.kv = true) (hlen : len.toNat = 16) :
    exec (.dec len) s = .next { s with dout := decrypt s.build.tables s.rk s.din, err := .ok } :=
  blockCommand_of_checks hkv hlen _

/-- Settles O46: once the checks pass, each command is the delivery of its block. -/
theorem encAndDecDeliverTheBlock : Obligations.EncAndDecDeliverTheBlock := by
  unfold Obligations.EncAndDecDeliverTheBlock
  exact fun _ _ hkv hlen => ⟨exec_enc hkv hlen, exec_dec hkv hlen⟩

/-- Settles O47: `ENC` keeps the schedule, so `DEC` decrypts what `ENC` encrypted under the same round keys. -/
theorem decAfterEncReturnsTheBlock : Obligations.DecAfterEncReturnsTheBlock := by
  unfold Obligations.DecAfterEncReturnsTheBlock
  rintro s ⟨-, -, hpi, hcoef⟩ hkv
  exact ⟨_, _, exec_enc hkv rfl, exec_dec hkv rfl, decrypt_encrypt hpi hcoef s.rk s.din, rfl⟩

end Sys2Proof.Machine
end

section
/-!
The OFB family (spec/43_ofb.md): the stream is the XOR with a keystream, what `OFBINIT` and each case of `OFB` do, and
that a session of these commands computes the stream.
-/

namespace Sys2Proof.Machine

/-! ## Bytes of strings of variable length (R11) -/

theorem listByte_append (x y : List Byte) (j : Nat) :
    listByte (x ++ y) j = if j < x.length then listByte x j else listByte y (j - x.length) := by
  rw [listByte, List.getElem?_append]
  split <;> rfl

theorem listByte_take {n j : Nat} (hj : j < n) (x : List Byte) : listByte (x.take n) j = listByte x j := by
  rw [listByte, List.getElem?_take_of_lt hj, listByte]

theorem listByte_sliceList {i n j : Nat} (hj : j < n) (x : List Byte) :
    listByte (sliceList x i n) j = listByte x (i + j) := by
  rw [sliceList, listByte_take hj, listByte, List.getElem?_drop, listByte]

theorem listByte_toList {n : Nat} (x : Bytes n) (j : Nat) : listByte x.toList j = byteAt x j := by
  rw [listByte, Vector.getElem?_toList, byteAt]

theorem blockAt_take {n : Nat} (hn : 16 ≤ n) (x : List Byte) : blockAt (x.take n) 0 = blockAt x 0 :=
  bytes_ext fun j hj => by rw [byteAt_blockAt, byteAt_blockAt, listByte_take (by omega)]

/-- The leading bytes of a string, one by one. -/
theorem take_eq_map_listByte {n : Nat} {x : List Byte} (hn : n ≤ x.length) :
    x.take n = (List.range n).map (listByte x) := by
  refine List.ext_getElem (by simp [hn]) fun j hj _ => ?_
  have hlen : j < x.length := hj.trans_le (List.length_take_le' n x)
  simp [listByte, hlen]

/-- The leading bytes of a block that is an XOR there. -/
theorem take_toList_eq_xorList {n : Nat} {b g : Block} {p : List Byte} (hn : n ≤ 16) (hp : n ≤ p.length)
    (h : ∀ j, j < n → byteAt b j = byteAt g j ^^^ listByte p j) :
    b.toList.take n = xorList (g.toList.take n) (p.take n) := by
  have hlen (x : Block) : n ≤ x.toList.length := by rwa [Vector.length_toList]
  rw [take_eq_map_listByte (hlen b), take_eq_map_listByte (hlen g), take_eq_map_listByte hp, xorList,
    List.zipWith_map, List.zipWith_self]
  refine List.map_congr_left fun j hj => ?_
  rw [listByte_toList, listByte_toList, h j (List.mem_range.mp hj)]

/-! ## The stream is the XOR with a keystream (R102, R103) -/

theorem length_xorList (x y : List Byte) : (xorList x y).length = min x.length y.length := List.length_zipWith

/-- XOR with the same string twice gives the data back. -/
theorem xorList_xorList {k p : List Byte} (h : p.length ≤ k.length) : xorList k (xorList k p) = p := by
  induction p generalizing k with
  | nil => simp [xorList]
  | cons b p ih =>
    cases k with
    | nil => simp at h
    | cons a k =>
      have hrest : xorList k (xorList k p) = p := ih (Nat.le_of_succ_le_succ h)
      simpa [xorList, ← BitVec.xor_assoc] using hrest

/-- XOR is as long as the shorter string, so the rest of the longer one does not enter it. -/
theorem xorList_take_left (k p : List Byte) : xorList (k.take p.length) p = xorList k p := by
  induction p generalizing k with
  | nil => simp [xorList]
  | cons b p ih =>
    cases k with
    | nil => rfl
    | cons a k => exact congrArg ((a ^^^ b) :: ·) (ih k)

theorem xorList_append_left (k l p : List Byte) :
    xorList (k ++ l) p = xorList k (p.take k.length) ++ xorList l (p.drop k.length) := by
  induction k generalizing p with
  | nil => rfl
  | cons a k ih =>
    cases p with
    | nil => simp [xorList]
    | cons b p => exact congrArg ((a ^^^ b) :: ·) (ih p)

/-- The gammas of `n` full blocks and of the tail, whatever the data. -/
def keystream (t : CipherTables) (k : RoundKeys) : Nat → List Byte → List Byte
  | 0, reg => (encrypt t k (blockAt reg 0)).toList
  | n + 1, reg =>
    let g := (encrypt t k (blockAt reg 0)).toList
    g ++ keystream t k n (reg.drop 16 ++ g)

theorem length_keystream (t : CipherTables) (k : RoundKeys) (n : Nat) (reg : List Byte) :
    (keystream t k n reg).length = 16 * (n + 1) := by
  induction n generalizing reg with
  | zero => exact Vector.length_toList
  | succ n ih =>
    rw [keystream, List.length_append, Vector.length_toList, ih]
    omega

theorem streamFrom_fst (t : CipherTables) (k : RoundKeys) (n : Nat) (reg p : List Byte) :
    (streamFrom t k n reg p).1 = xorList (keystream t k n reg) p := by
  induction n generalizing reg p with
  | zero => exact xorList_take_left _ p
  | succ n ih => rw [streamFrom, keystream, ih, xorList_append_left, Vector.length_toList]

/-- The number of gammas depends on the length of the data alone. -/
theorem ofbStream_fst (t : CipherTables) (k : RoundKeys) (iv p : List Byte) :
    (ofbStream t k iv p).1 = xorList (keystream t k (p.length / 16) iv) p :=
  streamFrom_fst t k _ iv p

theorem length_le_length_keystream (t : CipherTables) (k : RoundKeys) (iv p : List Byte) :
    p.length ≤ (keystream t k (p.length / 16) iv).length := by
  rw [length_keystream]
  omega

theorem length_ofbStream (t : CipherTables) (k : RoundKeys) (iv p : List Byte) :
    (ofbStream t k iv p).1.length = p.length := by
  rw [ofbStream_fst, length_xorList, Nat.min_eq_right (length_le_length_keystream t k iv p)]

/-- Settles O41: the output is as long as the data, so the second pass takes the same keystream. -/
theorem ofbStreamIsSelfInverse : Obligations.OfbStreamIsSelfInverse := by
  unfold Obligations.OfbStreamIsSelfInverse
  intro t k iv p
  refine ⟨length_ofbStream t k iv p, ?_⟩
  rw [ofbStream_fst t k iv (ofbStream t k iv p).1, length_ofbStream, ofbStream_fst,
    xorList_xorList (length_le_length_keystream t k iv p)]

/-! ## `OFBINIT` (R97) -/

/-- A length that fits the `LEN` field (R54). -/
theorem toNat_ofNat_len {n : Nat} (h : n < 256) : (BitVec.ofNat 8 n).toNat = n := by
  rw [BitVec.toNat_ofNat, Nat.mod_eq_of_lt h]

/-- The register that `OFBINIT` loads: the leading `len` bytes of `IVBUF`, and zeros. -/
def initialRegister (len : Nat) (s : State) : List Byte :=
  sliceList s.ivbuf 0 len ++ zeroList (16 * s.build.zmax - len)

theorem exec_ofbinit {s : State} {len : Byte} (hkv : s.kv = true) (hlen : ivLengthOk len.toNat s.build.zmax = true) :
    exec (.ofbinit len) s = .next { s with
      ofbreg := initialRegister len.toNat s, ofbz := len.toNat / 16, ofbst := .running, err := .ok } := by
  rw [exec, execOfbinit, if_neg (by simp [hkv]), if_neg (by simp [hlen])]
  rfl

section
variable {s : State} {len : Nat} (hiv : s.ivbuf.length = 16 * s.build.zmax) (hlen : len ≤ 16 * s.build.zmax)
include hiv hlen

theorem length_ivSlice : (sliceList s.ivbuf 0 len).length = len := by
  rw [length_sliceList]
  omega

theorem length_initialRegister : (initialRegister len s).length = 16 * s.build.zmax := by
  rw [initialRegister, List.length_append, length_ivSlice hiv hlen, length_zeroList]
  omega

theorem listByte_initialRegister (j : Nat) :
    listByte (initialRegister len s) j = if j < len then listByte s.ivbuf j else 0 := by
  rw [initialRegister, listByte_append, length_ivSlice hiv hlen]
  by_cases hj : j < len
  · rw [if_pos hj, if_pos hj, listByte_sliceList hj, Nat.zero_add]
  · rw [if_neg hj, if_neg hj, listByte_zeroList]

theorem take_initialRegister : (initialRegister len s).take len = s.ivbuf.take len :=
  List.take_left' (length_ivSlice hiv hlen)

end

/-- Settles O48: both checks of `OFBINIT` pass, and the register is the one it loads. -/
theorem ofbinitLoadsTheRegister : Obligations.OfbinitLoadsTheRegister := by
  unfold Obligations.OfbinitLoadsTheRegister
  intro s len hkv hiv hpos hblocks hmax
  have hok : ivLengthOk len.toNat s.build.zmax = true := (ivLengthOk_iff _ _).mpr ⟨by omega, hblocks, hmax⟩
  exact ⟨_, exec_ofbinit hkv hok, rfl, length_initialRegister hiv hmax, fun j _ => listByte_initialRegister hiv hmax j⟩

/-! ## The three cases of `OFB` (R98 to R101) -/

/-- In a running session the checks pass for every LEN up to 16, and LEN selects the case. -/
theorem exec_ofb_of_running {s : State} {len : Byte} (hkv : s.kv = true) (hrun : s.ofbst = .running)
    (hlen : len.toNat ≤ 16) :
    exec (.ofb len) s =
      if len.toNat = 16 then ofbFullBlock s else if len.toNat = 0 then succeed s else ofbTail len.toNat s := by
  rw [exec, execOfb, if_neg (by simp [hkv]), if_neg (not_not.mpr hrun), if_neg (Nat.not_lt.mpr hlen)]

theorem exec_ofb_fullBlock {s : State} {len : Byte} (hkv : s.kv = true) (hrun : s.ofbst = .running)
    (hlen : len.toNat = 16) :
    exec (.ofb len) s =
      .next { s with dout := xorBytes (gamma s) s.din, ofbreg := shiftedRegister s, err := .ok } := by
  rw [exec_ofb_of_running hkv hrun hlen.le, if_pos hlen]
  rfl

theorem exec_ofb_tail {s : State} {len : Byte} (hkv : s.kv = true) (hrun : s.ofbst = .running)
    (hmin : 1 ≤ len.toNat) (hmax : len.toNat ≤ 15) :
    exec (.ofb len) s =
      .next { s with dout := tailOutput len.toNat (gamma s) s.din, ofbst := .tailDone, err := .ok } := by
  rw [exec_ofb_of_running hkv hrun (by omega), if_neg (by omega), if_neg (by omega)]
  rfl

/-- Settles O51: both checks pass, and LEN = 0 selects the case that only reports. -/
theorem ofbOfNoBytesOnlyReportsSuccess : Obligations.OfbOfNoBytesOnlyReportsSuccess := by
  unfold Obligations.OfbOfNoBytesOnlyReportsSuccess
  intro s len hkv hrun hlen
  rw [exec_ofb_of_running hkv hrun (by omega), if_neg (by omega), if_pos hlen]
  rfl

theorem byteAt_tailOutput (n : Nat) (g d : Block) {j : Nat} (hj : j < 16) :
    byteAt (tailOutput n g d) j = if j < n then byteAt g j ^^^ byteAt d j else 0 := by
  rw [tailOutput, byteAt_ofBytes, if_pos hj]

/-- Settles O50: LEN selects the tail, whose output is written byte by byte. -/
theorem ofbTailEndsTheSession : Obligations.OfbTailEndsTheSession := by
  unfold Obligations.OfbTailEndsTheSession
  intro s len hkv hrun hmin hmax
  refine ⟨_, gamma s, exec_ofb_tail hkv hrun hmin hmax, rfl, rfl, fun j hj => ?_, fun j hj hj' => ?_⟩
  · rw [byteAt_tailOutput _ _ _ (by omega), if_pos hj]
  · rw [byteAt_tailOutput _ _ _ hj', if_neg (Nat.not_lt.mpr hj)]

section
variable {s : State} (hreg : s.ofbreg.length = 16 * s.build.zmax) (hpos : 1 ≤ s.ofbz) (hfits : s.ofbz ≤ s.build.zmax)
include hreg hfits

/-- What the shift keeps: the live part of the register but its leading block. -/
theorem length_keptBlocks : (sliceList s.ofbreg 16 (16 * s.ofbz - 16)).length = 16 * s.ofbz - 16 := by
  rw [length_sliceList]
  omega

include hpos

theorem length_shiftedLivePart :
    (sliceList s.ofbreg 16 (16 * s.ofbz - 16) ++ (gamma s).toList).length = 16 * s.ofbz := by
  rw [List.length_append, length_keptBlocks hreg hfits, Vector.length_toList]
  omega

theorem length_shiftedRegister : (shiftedRegister s).length = 16 * s.build.zmax := by
  rw [shiftedRegister, List.length_append, length_shiftedLivePart hreg hpos hfits, length_zeroList]
  omega

theorem listByte_shiftedRegister (j : Nat) :
    listByte (shiftedRegister s) j =
      if j < 16 * s.ofbz - 16 then listByte s.ofbreg (j + 16)
      else if j < 16 * s.ofbz then byteAt (gamma s) (j - (16 * s.ofbz - 16))
      else 0 := by
  rw [shiftedRegister, listByte_append, length_shiftedLivePart hreg hpos hfits, listByte_append,
    length_keptBlocks hreg hfits, listByte_zeroList, listByte_toList]
  by_cases hkept : j < 16 * s.ofbz - 16
  · rw [if_pos (by omega), if_pos hkept, if_pos hkept, listByte_sliceList hkept, Nat.add_comm]
  · rw [if_neg hkept, if_neg hkept]

/-- The live part after the shift: the leading block dropped, gamma appended (R99). -/
theorem take_shiftedRegister :
    (shiftedRegister s).take (16 * s.ofbz) = (s.ofbreg.take (16 * s.ofbz)).drop 16 ++ (gamma s).toList := by
  rw [shiftedRegister, List.take_left' (length_shiftedLivePart hreg hpos hfits), List.drop_take, sliceList]

end

/-- Settles O49: LEN selects the full block, and the bytes of the register are those of the shift. -/
theorem ofbFullBlockAdvancesTheRegister : Obligations.OfbFullBlockAdvancesTheRegister := by
  unfold Obligations.OfbFullBlockAdvancesTheRegister
  intro s len hkv hrun hlen hreg hpos hfits
  have hbyte := listByte_shiftedRegister hreg hpos hfits
  refine ⟨_, gamma s, exec_ofb_fullBlock hkv hrun hlen, rfl, rfl, length_shiftedRegister hreg hpos hfits,
    fun j hj => ?_, fun j hj => ?_, fun j hj => ?_⟩
  · rw [hbyte, if_pos hj]
  · rw [hbyte, if_neg (by omega), if_pos (by omega), Nat.add_sub_cancel_left]
  · rw [hbyte, if_neg (by omega), if_neg (by omega)]

/-! ## A session computes the stream (R103) -/

/-- A running session of `z` blocks whose last command succeeded. -/
structure State.InSession (s : State) (z : Nat) : Prop where
  hasKey : s.kv = true
  running : s.ofbst = .running
  succeeded : s.err = .ok
  blocks : s.ofbz = z
  nonempty : 1 ≤ z
  fits : z ≤ s.build.zmax
  width : s.ofbreg.length = 16 * s.build.zmax

/-- The state after an `ofb 16` on the leading block of `p`. -/
def afterFullBlock (p : List Byte) (s : State) : State :=
  { s with din := blockAt p 0, dout := xorBytes (gamma s) (blockAt p 0), ofbreg := shiftedRegister s, err := .ok }

/-- The state after an `OFB` on the tail `p`. -/
def afterTail (p : List Byte) (s : State) : State :=
  { s with din := blockAt p 0, dout := tailOutput p.length (gamma s) (blockAt p 0), ofbst := .tailDone, err := .ok }

theorem ofbOn_eq_some {len : Byte} {p : List Byte} {s t : State}
    (h : exec (.ofb len) { s with din := blockAt p 0 } = .next t) (herr : t.err = .ok) : ofbOn len p s = some t := by
  simp only [ofbOn, h, if_pos herr]

theorem toList_dout_afterFullBlock {p : List Byte} (hp : 16 ≤ p.length) (s : State) :
    (afterFullBlock p s).dout.toList = xorList (gamma s).toList (p.take 16) := by
  have hbytes : ∀ j, j < 16 → byteAt (afterFullBlock p s).dout j = byteAt (gamma s) j ^^^ listByte p j :=
    fun j hj => by rw [afterFullBlock, byteAt_xorBytes, byteAt_blockAt, if_pos hj, Nat.zero_add]
  have hall (b : Block) : b.toList.take 16 = b.toList := List.take_of_length_le Vector.length_toList.le
  rw [← hall (afterFullBlock p s).dout, take_toList_eq_xorList le_rfl hp hbytes, hall]

theorem take_dout_afterTail {p : List Byte} (hp : p.length ≤ 16) (s : State) :
    (afterTail p s).dout.toList.take p.length = xorList ((gamma s).toList.take p.length) p := by
  have hbytes : ∀ j, j < p.length → byteAt (afterTail p s).dout j = byteAt (gamma s) j ^^^ listByte p j :=
    fun j hj => by
      rw [afterTail, byteAt_tailOutput _ _ _ (by omega), if_pos hj, byteAt_blockAt, if_pos (by omega), Nat.zero_add]
  rw [take_toList_eq_xorList hp le_rfl hbytes, List.take_length]

namespace State.InSession

variable {s : State} {z : Nat}

/-- The gamma of the core is the one that the stream takes from the live part of the register. -/
theorem encrypt_livePart (h : s.InSession z) :
    encrypt s.build.tables s.rk (blockAt (s.ofbreg.take (16 * z)) 0) = gamma s := by
  have hz := h.nonempty
  rw [blockAt_take (by omega), gamma]

theorem ofbOn_fullBlock (h : s.InSession z) (p : List Byte) : ofbOn 16 p s = some (afterFullBlock p s) :=
  ofbOn_eq_some (exec_ofb_fullBlock h.hasKey h.running rfl) rfl

theorem ofbOn_tail (h : s.InSession z) {p : List Byte} (hmin : 1 ≤ p.length) (hmax : p.length ≤ 15) :
    ofbOn (BitVec.ofNat 8 p.length) p s = some (afterTail p s) := by
  have hlen : (BitVec.ofNat 8 p.length).toNat = p.length := toNat_ofNat_len (by omega)
  have htail := exec_ofb_tail (s := { s with din := blockAt p 0 }) (len := BitVec.ofNat 8 p.length) h.hasKey h.running
    (by omega) (by omega)
  rw [hlen] at htail
  exact ofbOn_eq_some htail rfl

theorem inSession_afterFullBlock (h : s.InSession z) (p : List Byte) : (afterFullBlock p s).InSession z := by
  obtain ⟨hkv, hrun, -, rfl, hpos, hfits, hreg⟩ := h
  exact ⟨hkv, hrun, rfl, rfl, hpos, hfits, length_shiftedRegister hreg hpos hfits⟩

theorem livePart_afterFullBlock (h : s.InSession z) (p : List Byte) :
    (afterFullBlock p s).ofbreg.take (16 * z) = (s.ofbreg.take (16 * z)).drop 16 ++ (gamma s).toList := by
  obtain ⟨-, -, -, rfl, hpos, hfits, hreg⟩ := h
  exact take_shiftedRegister hreg hpos hfits

/-- The commands for `n` full blocks and a tail go through the loop of `OFBStream` (R103). -/
theorem ofbCommands_eq_streamFrom (h : s.InSession z) {n : Nat} {p : List Byte} (hn : p.length / 16 = n) :
    ∃ u, ofbCommands n p s =
        some ((streamFrom s.build.tables s.rk n (s.ofbreg.take (16 * z)) p).1, u) ∧
      u.ofbreg.take (16 * z) = (streamFrom s.build.tables s.rk n (s.ofbreg.take (16 * z)) p).2 ∧
      u.ofbst = (if p.length % 16 = 0 then .running else .tailDone) ∧ u.err = .ok := by
  induction n generalizing s p with
  | zero =>
    rw [streamFrom, h.encrypt_livePart, ofbCommands]
    by_cases hp : p = []
    · subst hp
      exact ⟨s, by simp [xorList], rfl, h.running, h.succeeded⟩
    · have hmin : 1 ≤ p.length := List.length_pos_iff.mpr hp
      refine ⟨afterTail p s, ?_, rfl, (if_neg (by omega)).symm, rfl⟩
      rw [if_neg hp, h.ofbOn_tail hmin (by omega), Option.map_some, take_dout_afterTail (by omega)]
  | succ n ih =>
    have hdrop : (p.drop 16).length = p.length - 16 := List.length_drop
    obtain ⟨u, hrun, hreg, hst, herr⟩ := ih (h.inSession_afterFullBlock p) (p := p.drop 16) (by omega)
    rw [h.livePart_afterFullBlock] at hrun hreg
    rw [streamFrom, h.encrypt_livePart]
    refine ⟨u, ?_, hreg, ?_, herr⟩
    · rw [ofbCommands, h.ofbOn_fullBlock, Option.bind_some, hrun, Option.map_some,
        toList_dout_afterFullBlock (by omega)]
      rfl
    · rw [hst, hdrop, show (p.length - 16) % 16 = p.length % 16 by omega]

end State.InSession

/-- Settles O52: `OFBINIT` opens a session on the IV, and the commands of a session compute the stream from its
register. -/
theorem ofbCommandsComputeTheStream : Obligations.OfbCommandsComputeTheStream := by
  unfold Obligations.OfbCommandsComputeTheStream
  intro s z p hkv hzmax hiv hpos hfits
  have hlen : (BitVec.ofNat 8 (16 * z)).toNat = 16 * z := toNat_ofNat_len (by omega)
  have hok : ivLengthOk (16 * z) s.build.zmax = true := (ivLengthOk_iff _ _).mpr ⟨by omega, by omega, by omega⟩
  have hinit := exec_ofbinit hkv (hlen.symm ▸ hok)
  rw [hlen, Nat.mul_div_cancel_left z (by decide)] at hinit
  have hsession : State.InSession { s with
      ofbreg := initialRegister (16 * z) s, ofbz := z, ofbst := .running, err := .ok } z :=
    ⟨hkv, rfl, rfl, rfl, hpos, hfits, length_initialRegister hiv (by omega)⟩
  obtain ⟨u, hrun, hreg, hst, herr⟩ := hsession.ofbCommands_eq_streamFrom (p := p) rfl
  rw [take_initialRegister hiv (by omega)] at hrun hreg
  exact ⟨_, u, _, hinit, hrun, rfl, hreg, hst, herr⟩

end Sys2Proof.Machine
end

section
/-!
The control family (spec/44_control.md): what a write to `CMD` does with a legal and with an illegal word, and `NOP`.
-/

namespace Sys2Proof.Machine

/-! ## Command issue (R105, R107) -/

theorem execute_of_decodeWord {w : Word} {i : Instr} (h : decodeWord w = .ok i) (s : State) :
    execute w s = exec i s := by
  simp only [execute, h]

/-- An illegal word has no command, and whatever the decoder names as its reason the effect is the same. -/
theorem execute_of_not_legal {w : Word} (h : legal w = false) (s : State) :
    execute w s = .next { s with err := .illegalCommand } := by
  cases hdecode : decodeWord w with
  | ok i => exact absurd ((exists_decodeWord_iff_legal w).mp ⟨i, hdecode⟩) (Bool.eq_false_iff.mp h)
  | error e =>
    simp only [execute, hdecode]
    rfl

/-- `CMD` is inside the window and aligned, so the write is accepted; the command finds the write answered. -/
theorem step_command {s : State} {w : Word} {rest : List HostEvent}
    (hp : s.pending = .access (.write 4 0x000 w) :: rest) : step s = execute w (afterWrite rest s) := by
  rw [step_access hp, performAccess_write (by decide) (by decide), busWrite, if_pos rfl]
  rfl

/-- Settles O5: the write is accepted, and the decoder answers the command that runs. -/
theorem stepRunsDecodedCommand : Obligations.StepRunsDecodedCommand := by
  unfold Obligations.StepRunsDecodedCommand
  intro s w rest i hp hdecode
  rw [step_command hp, execute_of_decodeWord hdecode]
  rfl

/-- Settles O6: the write is accepted, and the decoder answers no command. -/
theorem illegalWordOnlyReports : Obligations.IllegalWordOnlyReports := by
  unfold Obligations.IllegalWordOnlyReports
  refine ⟨rfl, fun s w rest hp hillegal => ?_⟩
  rw [step_command hp, execute_of_not_legal hillegal]
  rfl

/-! ## `NOP` (R106) -/

theorem exec_nop (s : State) : exec .nop s = .next { s with err := .ok } := rfl

/-- Settles O42: `NOP` is a report of success, and 0x00000000 is its encoding. -/
theorem nopOnlyClearsErr : Obligations.NopOnlyClearsErr := by
  unfold Obligations.NopOnlyClearsErr
  exact ⟨exec_nop, fun _ => decodeWord_eq_ok_iff (i := .nop) rfl⟩

end Sys2Proof.Machine
end

section
/-!
The error family (spec/60_exceptions.md): the codes of `ERR`, the order in which each command checks, and what a failed
command changes.
-/

namespace Sys2Proof.Machine

/-! ## The error codes (R109) -/

/-- Settles O28: one code for each row of the table. -/
theorem errorCodesAreThoseOfTheTable : Obligations.ErrorCodesAreThoseOfTheTable := by
  unfold Obligations.ErrorCodesAreThoseOfTheTable
  exact ⟨rfl, rfl, rfl, rfl, rfl, rfl, rfl, rfl⟩

/-! ## The first failing check decides (R110, R111) -/

theorem blockCommand_of_no_key {s : State} (hkv : s.kv = false) (len : Byte) (b : Block) :
    blockCommand len b s = raiseError .noKey s := by
  rw [blockCommand, if_pos hkv]

theorem blockCommand_of_len_ne {s : State} {len : Byte} (hkv : s.kv = true) (hlen : len.toNat ≠ 16) (b : Block) :
    blockCommand len b s = raiseError .invalidBlockSize s := by
  rw [blockCommand, if_neg (by simp [hkv]), if_pos hlen]

theorem exec_ofbinit_of_no_key {s : State} (hkv : s.kv = false) (len : Byte) :
    exec (.ofbinit len) s = raiseError .noKey s := by
  rw [exec, execOfbinit, if_pos hkv]

theorem exec_ofbinit_of_not_ivLengthOk {s : State} {len : Byte} (hkv : s.kv = true)
    (hlen : ivLengthOk len.toNat s.build.zmax = false) : exec (.ofbinit len) s = raiseError .invalidIv s := by
  rw [exec, execOfbinit, if_neg (by simp [hkv]), if_pos hlen]

/-- The three ways a LEN is no IV length (R97). -/
theorem ivLengthOk_eq_false {len zmax : Nat} (h : len = 0 ∨ len % 16 ≠ 0 ∨ 16 * zmax < len) :
    ivLengthOk len zmax = false := by
  rw [Bool.eq_false_iff, ne_eq, ivLengthOk_iff]
  omega

theorem exec_ofb_of_no_key {s : State} (hkv : s.kv = false) (len : Byte) :
    exec (.ofb len) s = raiseError .noKey s := by
  rw [exec, execOfb, if_pos hkv]

theorem exec_ofb_of_not_running {s : State} (hkv : s.kv = true) (hst : s.ofbst ≠ .running) (len : Byte) :
    exec (.ofb len) s = raiseError .ofbNotReady s := by
  rw [exec, execOfb, if_neg (by simp [hkv]), if_pos hst]

theorem exec_ofb_of_len_gt {s : State} {len : Byte} (hkv : s.kv = true) (hrun : s.ofbst = .running)
    (hlen : 16 < len.toNat) : exec (.ofb len) s = raiseError .invalidData s := by
  rw [exec, execOfb, if_neg (by simp [hkv]), if_neg (not_not.mpr hrun), if_pos hlen]

/-! ## The commands without a state or length check (R111) -/

theorem exists_ok_succeed (s : State) : ∃ t, succeed s = .next t ∧ t.err = .ok := ⟨_, rfl, rfl⟩

theorem exists_ok_deliver (b : Block) (s : State) : ∃ t, deliver b s = .next t ∧ t.err = .ok := ⟨_, rfl, rfl⟩

/-- `GFMUL` and `RCON` test the range of `IDX` that every legal word meets; the others test nothing. -/
theorem exists_ok_exec_of_unchecked {i : Instr} {idx : Byte}
    (hi : i ∈ ([.nop, .keyclr, .sub, .subi, .lt, .lti, .rst, .rsti, .gfmul idx, .rcon idx] : List Instr))
    (hwf : i.wellFormed = true) (s : State) : ∃ t, exec i s = .next t ∧ t.err = .ok := by
  cases i with
  | nop => exact exists_ok_succeed s
  | keyclr => exact exists_ok_succeed _
  | sub => exact exists_ok_deliver _ s
  | subi => exact exists_ok_deliver _ s
  | lt => exact exists_ok_deliver _ s
  | lti => exact exists_ok_deliver _ s
  | rst => exact exists_ok_deliver _ s
  | rsti => exact exists_ok_deliver _ s
  | gfmul j =>
    rw [exec_gfmul (of_decide_eq_true hwf)]
    exact exists_ok_deliver _ s
  | rcon j =>
    obtain ⟨hmin, hmax⟩ := of_decide_eq_true hwf
    rw [exec_rcon hmin hmax]
    exact exists_ok_deliver _ s
  | keyexp len => simp at hi
  | enc len => simp at hi
  | dec len => simp at hi
  | ofbinit len => simp at hi
  | ofb len => simp at hi

/-- Settles O27: the decoder comes before every command, and each command reports its first failing check. -/
theorem errorsAreReportedInCheckOrder : Obligations.ErrorsAreReportedInCheckOrder := by
  unfold Obligations.ErrorsAreReportedInCheckOrder
  refine ⟨fun s w hillegal => execute_of_not_legal hillegal s, fun s len =>
    ⟨fun hlen => exec_keyexp_of_len_ne hlen s, fun hkv => ?noKey, fun hkv => ?keyed,
      fun i hi hwf => exists_ok_exec_of_unchecked hi hwf s⟩⟩
  case noKey =>
    exact ⟨blockCommand_of_no_key hkv len _, blockCommand_of_no_key hkv len _, exec_ofbinit_of_no_key hkv len,
      exec_ofb_of_no_key hkv len⟩
  case keyed =>
    exact ⟨fun hlen => ⟨blockCommand_of_len_ne hkv hlen _, blockCommand_of_len_ne hkv hlen _⟩,
      fun hlen => exec_ofbinit_of_not_ivLengthOk hkv (ivLengthOk_eq_false hlen),
      fun hst => exec_ofb_of_not_running hkv hst len, fun hrun hlen => exec_ofb_of_len_gt hkv hrun hlen⟩

/-! ## A failed command (R88, R112) -/

/-- A command that did not report `OK` raised an error, or is a `KEYEXP` that wiped `KEY` over its size error: every
other effect ends in `OK`. -/
theorem CommandEffect.of_failed {s t : State} {i : Instr} (h : CommandEffect s i t) (herr : t.err ≠ .ok) :
    t = setErr t.err s ∨ ∃ len, i = .keyexp len ∧ len.toNat ≠ 32 ∧ t = setErr .invalidKeySize (wipeKey s) := by
  cases h with
  | error => exact Or.inl rfl
  | keySizeError hlen => exact Or.inr ⟨_, rfl, hlen, rfl⟩
  | _ => exact absurd rfl herr

/-- Settles O26: a failed command is one of the two effects that report an error. -/
theorem failedCommandChangesOnlyErr : Obligations.FailedCommandChangesOnlyErr := by
  unfold Obligations.FailedCommandChangesOnlyErr
  exact fun _ _ _ h herr => (exec_effect h).of_failed herr

end Sys2Proof.Machine
end

section
/-!
The reset and hazards family (spec/70_reset_and_hazards.md): both kinds of reset, and a `KEYEXP` that finds the key
already consumed.
-/

namespace Sys2Proof.Machine

/-! ## Reset (R35, R120) -/

theorem step_reset {s : State} {rest : List HostEvent} (hp : s.pending = .reset :: rest) :
    step s = .next (resetRegisters .none (setPending rest s)) := step_of_pending_cons hp

/-- The command that reset interrupts leaves no trace: its word is not read. -/
theorem step_resetDuringCommand {s : State} {w : Word} {rest : List HostEvent}
    (hp : s.pending = .resetDuringCommand w :: rest) :
    step s = .next (resetRegisters .cutByReset (setPending rest s)) := step_of_pending_cons hp

/-- The registers of the state before reset are forgotten; its build and the later host events are not. -/
theorem resetRegisters_setPending (r : Reply) (rest : List HostEvent) (s : State) :
    resetRegisters r (setPending rest s) = { State.resetOf s.build with pending := rest, reply := r } := rfl

/-- Settles O18: both kinds of reset load the same reset values, and only the port's answer differs. -/
theorem resetRestoresEveryRegister : Obligations.ResetRestoresEveryRegister := by
  unfold Obligations.ResetRestoresEveryRegister
  refine fun s w rest => ⟨fun hp => ?reset, fun hp => ?resetDuringCommand⟩
  case reset => rw [step_reset hp, resetRegisters_setPending]
  case resetDuringCommand => rw [step_resetDuringCommand hp, resetRegisters_setPending]

/-! ## A repeated `KEYEXP` (R88, R124) -/

/-- What a successful `KEYEXP` leaves behind (`KEY` wiped, `KV` set, no session, `ERR` at `OK`) a second one writes
again, so only the schedule changes: it is now that of the wiped `KEY`. -/
theorem exec_keyexp_after_keyexp {s t : State} {len : Byte} (hlen : len.toNat = 32)
    (h : exec (.keyexp len) s = .next t) :
    exec (.keyexp len) t = .next { t with rk := keySchedule s.build.tables (zeros 32) } := by
  rw [exec_keyexp_of_len_eq hlen] at h ⊢
  obtain rfl := Host.Outcome.next.inj h
  rfl

/-- Settles O44: `KEYEXP 32` tests nothing of the state, so both succeed, and the first has wiped `KEY`. -/
theorem repeatedKeyexpDerivesTheZeroKey : Obligations.RepeatedKeyexpDerivesTheZeroKey := by
  unfold Obligations.RepeatedKeyexpDerivesTheZeroKey
  intro s
  have hfirst := exec_keyexp_of_len_eq (len := 32) rfl s
  exact ⟨_, _, hfirst, exec_keyexp_after_keyexp rfl hfirst, rfl, rfl⟩

end Sys2Proof.Machine
end
